-- ==== Sys2Proof/Word.lean ====
section
/-! DEFINITION. The widths of the block: bytes, 32-bit words, 7-bit device addresses and 5-bit status codes (R8, R10 of 00_scope.md). -/

namespace Sys2Proof

/-- One internal register, one wire byte (R8: internal registers are 8 bits wide). -/
abbrev Byte := BitVec 8

/-- A command word or a result word (R8, R64: 32 bits). -/
abbrev Word := BitVec 32

/-- A device address (R8: 7 bits). -/
abbrev Addr7 := BitVec 7

/-- The code field of SR, bits 7:3 (R27: 5 bits). -/
abbrev Code := BitVec 5

end Sys2Proof
end

