-- ==== Sys2Proof/Syntax.lean ====
section
/-! DEFINITION. The 16 host commands (R67 of 30_encoding.md), one constructor per row of spec/opcode_table.json, each operand an
unsigned immediate of the width R65 gives it. -/

namespace Sys2Proof

/-- A host command with its operands. -/
inductive Instr where
  /-- SET_BITRATE khz (R79). -/
  | setBitrate (khz : BitVec 16)
  /-- INIT (R80). -/
  | init
  /-- SEND_START (R92). -/
  | sendStart
  /-- SEND_REPEATED_START (R93). -/
  | sendRepeatedStart
  /-- SEND_STOP (R94). -/
  | sendStop
  /-- SEND_BYTE byte (R95). -/
  | sendByte (byte : Byte)
  /-- SEND_WRITE_ADDRESS addr7 (R96). -/
  | sendWriteAddress (addr7 : Addr7)
  /-- SEND_READ_ADDRESS addr7 (R97). -/
  | sendReadAddress (addr7 : Addr7)
  /-- SEND_DATA byte (R98). -/
  | sendData (byte : Byte)
  /-- RECEIVE_BYTE ack (R99): true returns ACK, false returns NACK. -/
  | receiveByte (ack : Bool)
  /-- GET_RECEIVED_BYTE (R101). -/
  | getReceivedByte
  /-- GET_STATUS (R102). -/
  | getStatus
  /-- READ_REGISTER addr7, reg (R109). -/
  | readRegister (addr7 : Addr7) (reg : Byte)
  /-- READ_REGISTERS addr7, reg, n (R110). -/
  | readRegisters (addr7 : Addr7) (reg : Byte) (n : Byte)
  /-- WRITE_REGISTER addr7, reg, byte (R111). -/
  | writeRegister (addr7 : Addr7) (reg : Byte) (byte : Byte)
  /-- WRITE_REGISTERS addr7, reg, n (R112). -/
  | writeRegisters (addr7 : Addr7) (reg : Byte) (n : Byte)
  deriving DecidableEq, Repr

end Sys2Proof
end

