-- ==== Sys2Proof/Decode.lean ====
section
/-! DEFINITION. Command words to commands and back (30_encoding.md): the fields of R65, the formats of R66, the opcode map of R67, the
illegal words of R68, the byte order of R49 (20_memory.md). -/

namespace Sys2Proof

/-- Why a word is illegal (R68), or why bytes are no command word (R64). All but the last are the error ILLEGAL_ENCODING. -/
inductive IllegalWord where
  /-- OP is not one of the 16 values of R67. -/
  | unassignedOpcode
  /-- OP is assigned and a reserved bit of its format is 1. -/
  | reservedBitSet
  /-- Not exactly four bytes: R64 admits one 32-bit word and nothing else. -/
  | notOneWord
  deriving DecidableEq, Repr

/-! Fields of the command word (R65). -/

def opField (w : Word) : Byte := w.extractLsb' 24 8
def zField (w : Word) : BitVec 1 := w.extractLsb' 23 1
def addr7Field (w : Word) : Addr7 := w.extractLsb' 16 7
def regField (w : Word) : Byte := w.extractLsb' 8 8
def dataField (w : Word) : Byte := w.extractLsb' 0 8
def khzField (w : Word) : BitVec 16 := w.extractLsb' 0 16
def ackField (w : Word) : Bool := w[0]

/-! Reserved bits of the formats (R66): true where all of them are 0. -/

/-- Format N: bits 23:0. -/
def reservedOkN (w : Word) : Bool := w.extractLsb' 0 24 == 0#24
/-- Format K: bits 23:16. -/
def reservedOkK (w : Word) : Bool := w.extractLsb' 16 8 == 0#8
/-- Format B: bits 23:8. -/
def reservedOkB (w : Word) : Bool := w.extractLsb' 8 16 == 0#16
/-- Format A: Z and bits 15:0. -/
def reservedOkA (w : Word) : Bool := zField w == 0#1 && w.extractLsb' 0 16 == 0#16
/-- Format R: bits 23:1. -/
def reservedOkR (w : Word) : Bool := w.extractLsb' 1 23 == 0#23
/-- Format T3: Z and bits 7:0. -/
def reservedOkT3 (w : Word) : Bool := zField w == 0#1 && dataField w == 0#8
/-- Format T4: Z. -/
def reservedOkT4 (w : Word) : Bool := zField w == 0#1

/-- The command of an assigned opcode, where the reserved bits of its format are 0 (R68). -/
def ifReservedOk (ok : Bool) (i : Instr) : Except IllegalWord Instr :=
  if ok then .ok i else .error .reservedBitSet

/-- The decoder: the command a 32-bit word is, by the opcode map of R67, or why it is illegal (R68). -/
def decode (w : Word) : Except IllegalWord Instr :=
  let op := opField w
  if op = 0x01#8 then ifReservedOk (reservedOkK w) (.setBitrate (khzField w))
  else if op = 0x02#8 then ifReservedOk (reservedOkN w) .init
  else if op = 0x10#8 then ifReservedOk (reservedOkN w) .sendStart
  else if op = 0x11#8 then ifReservedOk (reservedOkN w) .sendRepeatedStart
  else if op = 0x12#8 then ifReservedOk (reservedOkN w) .sendStop
  else if op = 0x13#8 then ifReservedOk (reservedOkB w) (.sendByte (dataField w))
  else if op = 0x14#8 then ifReservedOk (reservedOkA w) (.sendWriteAddress (addr7Field w))
  else if op = 0x15#8 then ifReservedOk (reservedOkA w) (.sendReadAddress (addr7Field w))
  else if op = 0x16#8 then ifReservedOk (reservedOkB w) (.sendData (dataField w))
  else if op = 0x17#8 then ifReservedOk (reservedOkR w) (.receiveByte (ackField w))
  else if op = 0x18#8 then ifReservedOk (reservedOkN w) .getReceivedByte
  else if op = 0x19#8 then ifReservedOk (reservedOkN w) .getStatus
  else if op = 0x20#8 then ifReservedOk (reservedOkT3 w) (.readRegister (addr7Field w) (regField w))
  else if op = 0x21#8 then
    ifReservedOk (reservedOkT4 w) (.readRegisters (addr7Field w) (regField w) (dataField w))
  else if op = 0x22#8 then
    ifReservedOk (reservedOkT4 w) (.writeRegister (addr7Field w) (regField w) (dataField w))
  else if op = 0x23#8 then
    ifReservedOk (reservedOkT4 w) (.writeRegisters (addr7Field w) (regField w) (dataField w))
  else .error .unassignedOpcode

/-- The little-endian word of four bytes, the first at the lowest offset (R49). -/
def wordOfBytes (b0 b1 b2 b3 : Byte) : Word := b3 ++ b2 ++ b1 ++ b0

/-- Byte `j` (0 to 3) of a word as the window holds it (R49: bits 8j+7 down to 8j). -/
def byteOfWord (w : Word) (j : Nat) : Byte := w.extractLsb' (8 * j) 8

/-- The decoder on bytes: a command is exactly one 32-bit word (R64). -/
def decodeBytes : List Byte → Except IllegalWord Instr
  | [b0, b1, b2, b3] => decode (wordOfBytes b0 b1 b2 b3)
  | _ => .error .notOneWord

/-! The encoder, from the formats of R66 and the opcodes of R67. -/

def formatN (op : Byte) : Word := op ++ 0#24
def formatK (op : Byte) (khz : BitVec 16) : Word := op ++ 0#8 ++ khz
def formatB (op data : Byte) : Word := op ++ 0#16 ++ data
def formatA (op : Byte) (addr7 : Addr7) : Word := op ++ 0#1 ++ addr7 ++ 0#16
def formatR (op : Byte) (ack : Bool) : Word := op ++ 0#23 ++ BitVec.ofBool ack
def formatT3 (op : Byte) (addr7 : Addr7) (reg : Byte) : Word := op ++ 0#1 ++ addr7 ++ reg ++ 0#8
def formatT4 (op : Byte) (addr7 : Addr7) (reg data : Byte) : Word := op ++ 0#1 ++ addr7 ++ reg ++ data

/-- The word of a command. -/
def encode : Instr → Word
  | .setBitrate khz => formatK 0x01#8 khz
  | .init => formatN 0x02#8
  | .sendStart => formatN 0x10#8
  | .sendRepeatedStart => formatN 0x11#8
  | .sendStop => formatN 0x12#8
  | .sendByte b => formatB 0x13#8 b
  | .sendWriteAddress a => formatA 0x14#8 a
  | .sendReadAddress a => formatA 0x15#8 a
  | .sendData b => formatB 0x16#8 b
  | .receiveByte ack => formatR 0x17#8 ack
  | .getReceivedByte => formatN 0x18#8
  | .getStatus => formatN 0x19#8
  | .readRegister a r => formatT3 0x20#8 a r
  | .readRegisters a r n => formatT4 0x21#8 a r n
  | .writeRegister a r b => formatT4 0x22#8 a r b
  | .writeRegisters a r n => formatT4 0x23#8 a r n

/-- One row of the opcode map of R67: the word `w` is the row's command when `w & mask = pattern`. -/
structure OpcodeRow where
  mnemonic : String
  mask : Word
  pattern : Word
  deriving DecidableEq, Repr

/-- Does the word belong to the row? It is the command in the row when w & mask = match (R67). -/
def OpcodeRow.admits (r : OpcodeRow) (w : Word) : Bool := w &&& r.mask == r.pattern

/-- The opcode map of R67 with the masks of R66, in the table's order. -/
def opcodeRows : List OpcodeRow := [
  ⟨"SET_BITRATE", 0xFFFF0000#32, 0x01000000#32⟩,
  ⟨"INIT", 0xFFFFFFFF#32, 0x02000000#32⟩,
  ⟨"SEND_START", 0xFFFFFFFF#32, 0x10000000#32⟩,
  ⟨"SEND_REPEATED_START", 0xFFFFFFFF#32, 0x11000000#32⟩,
  ⟨"SEND_STOP", 0xFFFFFFFF#32, 0x12000000#32⟩,
  ⟨"SEND_BYTE", 0xFFFFFF00#32, 0x13000000#32⟩,
  ⟨"SEND_WRITE_ADDRESS", 0xFF80FFFF#32, 0x14000000#32⟩,
  ⟨"SEND_READ_ADDRESS", 0xFF80FFFF#32, 0x15000000#32⟩,
  ⟨"SEND_DATA", 0xFFFFFF00#32, 0x16000000#32⟩,
  ⟨"RECEIVE_BYTE", 0xFFFFFFFE#32, 0x17000000#32⟩,
  ⟨"GET_RECEIVED_BYTE", 0xFFFFFFFF#32, 0x18000000#32⟩,
  ⟨"GET_STATUS", 0xFFFFFFFF#32, 0x19000000#32⟩,
  ⟨"READ_REGISTER", 0xFF8000FF#32, 0x20000000#32⟩,
  ⟨"READ_REGISTERS", 0xFF800000#32, 0x21000000#32⟩,
  ⟨"WRITE_REGISTER", 0xFF800000#32, 0x22000000#32⟩,
  ⟨"WRITE_REGISTERS", 0xFF800000#32, 0x23000000#32⟩]

/-- The mnemonic of a command (R67). -/
def Instr.mnemonic : Instr → String
  | .setBitrate _ => "SET_BITRATE"
  | .init => "INIT"
  | .sendStart => "SEND_START"
  | .sendRepeatedStart => "SEND_REPEATED_START"
  | .sendStop => "SEND_STOP"
  | .sendByte _ => "SEND_BYTE"
  | .sendWriteAddress _ => "SEND_WRITE_ADDRESS"
  | .sendReadAddress _ => "SEND_READ_ADDRESS"
  | .sendData _ => "SEND_DATA"
  | .receiveByte _ => "RECEIVE_BYTE"
  | .getReceivedByte => "GET_RECEIVED_BYTE"
  | .getStatus => "GET_STATUS"
  | .readRegister _ _ => "READ_REGISTER"
  | .readRegisters _ _ _ => "READ_REGISTERS"
  | .writeRegister _ _ _ => "WRITE_REGISTER"
  | .writeRegisters _ _ _ => "WRITE_REGISTERS"

/-- The command this decoder reads from a word given as bits: the word is laid out as the window holds it, little-endian (R49). -/
def decodeTableWord (nbits w : Nat) : Option Instr :=
  let v : Word := BitVec.ofNat 32 (w % 2 ^ nbits)
  match decodeBytes [byteOfWord v 0, byteOfWord v 1, byteOfWord v 2, byteOfWord v 3] with
  | .ok i => some i
  | .error _ => none

end Sys2Proof
end

