-- ==== Sys2Proof/Config.lean ====
section
/-! DEFINITION. What is fixed while the block runs (the parameters of R8, 00_scope.md) and the free values: what the
spec leaves open, as constants without a body. -/

namespace Sys2Proof

/-- The parameter MODE (R8, R15 of 00_scope.md). -/
inductive Mode where
  | faithful
  | hardened
  deriving DecidableEq, Repr

/-- The parameters a model takes as arguments (R8 of 00_scope.md; status constants R29 of 10_state.md). No step changes one
(R17 of 10_state.md). -/
structure Params where
  /-- F_CLK, the controller's input clock in Hz. OPEN. -/
  fClk : Nat
  /-- POLL_BUDGET, reads of one completion poll. -/
  pollBudget : Nat
  /-- STOP_BUDGET, reads of the stop-pending poll in HARDENED mode. -/
  stopBudget : Nat
  /-- MODE. OPEN. -/
  mode : Mode
  /-- START_SETUP_US, microseconds. OPEN; no effect on state (D36). -/
  startSetupUs : Nat
  /-- HOST_BASE, base address of the host window. OPEN. -/
  hostBase : Nat
  startOk : Byte
  repeatedStartOk : Byte
  writeAddressOk : Byte
  writeAddressNack : Byte
  writeDataOk : Byte
  writeDataNack : Byte
  readAddressOk : Byte
  readAddressNack : Byte
  readDataOk : Byte
  noInfo : Byte
  deriving DecidableEq, Repr

/-- The default parameter set: POLL_BUDGET and STOP_BUDGET of R8, FAITHFUL "when unstated" (R8), the default status
constants of R29. DESIGN CHOICE (log 4): the OPEN parameters take F_CLK 7,372,800 (the value of the spec's own examples),
START_SETUP_US 2 and HOST_BASE 0. -/
def Params.default : Params where
  fClk := 7372800
  pollBudget := 8000
  stopBudget := 8000
  mode := .faithful
  startSetupUs := 2
  hostBase := 0
  startOk := 0x08#8
  repeatedStartOk := 0x10#8
  writeAddressOk := 0x18#8
  writeAddressNack := 0x20#8
  writeDataOk := 0x28#8
  writeDataNack := 0x30#8
  readAddressOk := 0x40#8
  readAddressNack := 0x48#8
  readDataOk := 0x50#8
  noInfo := 0xF8#8

namespace Config

/-- FREE VALUE (R42 of 10_state.md; U8; log 2): whether the bus agent, when it may move and no input says which agent moves,
takes its step now. -/
opaque busMoves : Nat → Bool

/-- FREE VALUE (R42 of 10_state.md; U7; log 2): the status code the bus agent draws when no input gives one. -/
opaque busCode : Nat → Code

/-- FREE VALUE (R42 of 10_state.md; U7; log 2): the byte the bus agent draws when no input gives one. -/
opaque busByte : Nat → Byte

/-- FREE VALUE (R55 of 20_memory.md; U4, U5; log 8): what a host read that is not admitted returns, before it is cut to the width read. -/
opaque readData : Nat → Word

/-- FREE VALUE (R55 of 20_memory.md; U4; log 8): whether a host write of BUF made while BUSY = 1 takes effect. -/
opaque writeLands : Nat → Bool

end Config

end Sys2Proof
end

