-- ==== Sys2Proof/Machine/State.lean ====
section
/-! DEFINITION. The state of the block (10_state.md): registers, host-visible items, hidden state and histories, all plain data, with the
values after reset (R44) and the reasons a step can stop. -/

namespace Sys2Proof.Machine

/-- Control register CR (R19 of 10_state.md). Bits 3, 1 and 0 read 0 and ignore writes, so they have no storage (log 16). -/
structure Cr where
  /-- Bit 7, the completion flag (R20). -/
  int : Bool
  /-- Bit 6, the acknowledge choice of the next receive (R21). -/
  ea : Bool
  /-- Bit 5, start (R22). -/
  sta : Bool
  /-- Bit 4, stop pending (R23). -/
  sto : Bool
  /-- Bit 2, enable (R24). -/
  en : Bool
  deriving DecidableEq, Repr

/-- Status register SR (R27 of 10_state.md). Bit 2 reads 0 and has no storage (log 16). -/
structure Sr where
  /-- Bits 7:3, the protocol status code. -/
  code : Code
  /-- Bits 1:0, the prescaler selection (R30). -/
  ps : BitVec 2
  deriving DecidableEq, Repr

/-- The bus actions (R15 of 00_scope.md; R39 of 10_state.md). -/
inductive Action where
  | start
  | stop
  | send
  | recvAck
  | recvNack
  deriving DecidableEq, Repr

/-- A pending bus action; with SEND it holds the byte being sent, with every other action 0 (R39 of 10_state.md). -/
structure Pending where
  act : Action
  byte : Byte
  deriving DecidableEq, Repr

/-- HSTAT.PHASE (R36 of 10_state.md): IDLE 0, STARTED 1, ADDRESSED 2, DATA 3, STOPPED 4. -/
inductive Phase where
  | idle
  | started
  | addressed
  | data
  | stopped
  deriving DecidableEq, Repr

/-- ERRKIND (R72 of 30_encoding.md), in the order of its codes 0 to 6. -/
inductive ErrKind where
  | none
  | timeout
  | nack
  | busError
  | stopTimeout
  | illegalEncoding
  | badArgument
  deriving DecidableEq, Repr

/-- ERRPHASE (R73 of 30_encoding.md), in the order of its codes 0 to 7. -/
inductive ErrPhase where
  | none
  | start
  | repeatedStart
  | address
  | data
  | receive
  | stop
  | byte
  deriving DecidableEq, Repr

/-- The command accumulator ACC (R40 of 10_state.md). -/
structure Acc where
  value : Byte
  timeout : Bool
  mismatch : Bool
  illegal : Bool
  aborted : Bool
  errKind : ErrKind
  errPhase : ErrPhase
  errStatus : Byte
  deriving DecidableEq, Repr

/-- ACC with all fields 0 (R44 of 10_state.md; R69 of 30_encoding.md). -/
def Acc.zero : Acc where
  value := 0#8
  timeout := false
  mismatch := false
  illegal := false
  aborted := false
  errKind := .none
  errPhase := .none
  errStatus := 0#8

/-- One record of LOG: (phase, expected, got) (R117 of 60_exceptions.md). -/
structure LogEntry where
  phase : ErrPhase
  expected : Byte
  got : Byte
  deriving DecidableEq, Repr

/-- One event of BUSEV (R41 of 10_state.md). -/
inductive BusEvent where
  /-- Action `a` was issued; for SEND with the byte `b`, else 0. -/
  | issued (a : Action) (b : Byte)
  /-- Action `a` completed with a status code and, for a receive, the byte received, else 0. -/
  | completed (a : Action) (status : Byte) (b : Byte)
  /-- A pending action was replaced by an issue (R84 of 41_primitives.md). -/
  | abandoned (a : Action)
  /-- The enable bit went from 1 to 0 (R26). -/
  | disabled
  deriving DecidableEq, Repr

/-- The three breaches of the host's duties (R118 of 60_exceptions.md). -/
inductive HostFault where
  /-- A command submitted while HSTAT.BUSY = 1 (R54 of 20_memory.md). -/
  | submitWhileBusy
  /-- An access of BUF while HSTAT.BUSY = 1 (R55 of 20_memory.md). -/
  | bufWhileBusy
  /-- An access of a width or offset that is not admitted (R51 of 20_memory.md). -/
  | accessNotAdmitted
  deriving DecidableEq, Repr

/-! The sequencer's position (R38 of 10_state.md): in which procedure call of the command's rule the sequencer stands, and at which
step of that procedure. `k` counts the reads the poll in progress has made, `c` is the pseudocode's local "final poll
completed", `i` is the loop index. -/

/-- Steps of SendStart and SendRepeatedStart (R92, R93 of 41_primitives.md). -/
inductive StartPt where
  | issue
  | delay
  | poll (k : Nat)
  | timeout
  | check (c : Bool)
  deriving DecidableEq, Repr

/-- Steps of SendByte and of the post-check that follows it (R90, R96, R97, R98 of 41_primitives.md). -/
inductive SendPt where
  /-- The first read of CR.INT: "if not ready". -/
  | ready
  /-- The wait of the pre-check. -/
  | wait (k : Nat)
  /-- HARDENED: the status read of the pre-check's timeout. -/
  | waitTimeout
  /-- DR <- b. -/
  | load
  | issue
  | poll (k : Nat)
  | timeout
  | check (c : Bool)
  deriving DecidableEq, Repr

/-- Steps of ReceiveByte (R99 of 41_primitives.md). -/
inductive RecvPt where
  | issue
  | poll (k : Nat)
  | timeout
  | check (c : Bool)
  deriving DecidableEq, Repr

/-- Steps of SendStop (R94 of 41_primitives.md). -/
inductive StopPt where
  | issue
  | spin (k : Nat)
  | timeout
  deriving DecidableEq, Repr

/-- Steps of ToggleEnable (R91 of 41_primitives.md). -/
inductive TogglePt where
  | off
  | on
  deriving DecidableEq, Repr

/-- The step the sequencer performs next (R38 of 10_state.md). -/
inductive Pos where
  /-- SR.PS <- ps (R79, R80 of 40_bitrate.md). -/
  | setPs
  /-- BR <- d mod 256 (R79, R80). -/
  | setBr
  /-- INIT's write of CR (R80). -/
  | enable
  | start (p : StartPt)
  | repeatedStart (p : StartPt)
  | stop (p : StopPt)
  /-- SEND_BYTE (R95). -/
  | byte (p : SendPt)
  | writeAddress (p : SendPt)
  | readAddress (p : SendPt)
  /-- The sub-address as data, in a composite. -/
  | subAddress (p : SendPt)
  /-- A data byte; `i` is its index in a burst, else 0. -/
  | data (i : Nat) (p : SendPt)
  /-- A receive; `i` is its index in a burst, else 0. -/
  | receive (i : Nat) (p : RecvPt)
  /-- The read of DR (R101, R109). -/
  | readDr
  /-- The read of SR (R102). -/
  | readSr
  /-- BUF[i] <- DR (R110). -/
  | storeBuf (i : Nat)
  /-- b <- BUF[i] (R112). -/
  | loadBuf (i : Nat)
  | toggle (p : TogglePt)
  /-- `finish` (R70 of 30_encoding.md). -/
  | finish
  deriving DecidableEq, Repr

/-- The running command: CUR, the position in its pseudocode, and the byte its pseudocode holds in a local (v of READ_REGISTER,
b of WRITE_REGISTERS) (R38 of 10_state.md). -/
structure Seq where
  cur : Word
  pos : Pos
  held : Byte
  deriving DecidableEq, Repr

/-- One access the host makes of its window (R51 of 20_memory.md): an absolute address, a size in bytes, and for a write the data (an
8-bit write uses its low byte). -/
inductive HostAccess where
  | read (addr : Nat) (size : Nat)
  | write (addr : Nat) (size : Nat) (data : Word)
  deriving DecidableEq, Repr

/-- One move of the world, as an input (log 2): which agent moves next and what it brings. -/
inductive Move where
  /-- The sequencer takes its next step. -/
  | sequencer
  /-- The bus agent completes the pending action with this code and byte (R42). -/
  | bus (code : Code) (byte : Byte)
  /-- The host makes an access. -/
  | host (a : HostAccess)
  /-- The platform asserts reset (R129). -/
  | reset
  deriving DecidableEq, Repr

/-- BUF as a list of (index, byte): indexes strictly rising, and an index that is not listed has not been written since reset, so no
entry equals what an unlisted index reads as (R37 of 10_state.md; log 9). -/
abbrev Memory := List Host.Cell

/-- The whole state (R17 of 10_state.md), the parameters (R8 of 00_scope.md), and the model's own fields inputs, tick and hostData. -/
structure State where
  /-- The parameters; no step changes them (R17). -/
  cfg : Params
  /-- Control register (R19). -/
  cr : Cr
  /-- Status register (R27). -/
  sr : Sr
  /-- Data register (R31). -/
  dr : Byte
  /-- Bit-rate divider register (R32). -/
  br : Byte
  /-- The last complete command word written (R33). -/
  cmd : Word
  /-- The bytes latched for the next submission (R53 of 20_memory.md; log 6). -/
  latch : Word
  /-- Result register (R34). -/
  result : Word
  /-- HSTAT.OVERRUN (R35). -/
  overrun : Bool
  /-- HSTAT.PHASE (R36). -/
  phase : Phase
  /-- Data buffer (R37). -/
  buf : Memory
  /-- The pending bus action (R39). -/
  pend : Option Pending
  /-- CUR and the position, or none when no command runs (R38). HSTAT.BUSY is read from it (log 5). -/
  seq : Option Seq
  /-- Command accumulator (R40). -/
  acc : Acc
  /-- Log history, oldest first (R41). -/
  log : List LogEntry
  /-- Bus-event history, oldest first (R41). -/
  busev : List BusEvent
  /-- Host faults recorded, oldest first; never cleared (R118 of 60_exceptions.md). -/
  hostFaults : List HostFault
  /-- The model's own: what the last host read returned (log 7). -/
  hostData : Word
  /-- The model's own: the coming moves of the world (log 2). -/
  inputs : List Move
  /-- The model's own: numbers the draws of free values (log 2). -/
  tick : Nat
  deriving DecidableEq, Repr

/-- Why the machine stops with a fault. -/
inductive Fault where
  /-- A read of the BUF byte `index`, which nothing has written since reset (R37, R44 of 10_state.md; U6 of
  93_implementation_defined.md: "fault"). Raised by the BUF read of WRITE_REGISTERS and by an 8-bit host read of BUF while
  BUSY = 0 (log 9). Safe: the hardware goes on with an unspecified byte. -/
  | bufUnwritten (index : Nat)
  /-- A host access at an address outside the 512 bytes of the window (R45 of 20_memory.md). Raised by the host port. Safe: such an
  access does not reach the block. -/
  | outsideWindow (addr : Nat)
  deriving DecidableEq, Repr

/-- Why the machine refuses to go on. -/
inductive Refusal where
  /-- An instruction without a meaning; no arm of exec raises it. Safe. -/
  | notModelled (mnemonic : String)
  /-- The parameter set breaks R9 of 00_scope.md or a bound of R8 or R46 (U21: "refuse"). Raised by step. Safe. -/
  | badParameters
  /-- CUR and the sequencer's position do not belong together; no run reaches such a state (log 12). Raised by a meaning and by the
  sequencer's turn. Safe. -/
  | noSuchPosition
  deriving DecidableEq, Repr

/-- What one transition answers. -/
abbrev Result := Host.Outcome State Fault Refusal

/-- The state right after reset with the parameters `p` (R44 of 10_state.md). The latch, the host fault record and the model's own
fields: DESIGN CHOICE (logs 2, 6, 7, 11). -/
def State.resetWith (p : Params) : State where
  cfg := p
  cr := { int := false, ea := false, sta := false, sto := false, en := false }
  sr := { code := 0x1F#5, ps := 0#2 }
  dr := 0xFF#8
  br := 0x00#8
  cmd := 0x00000000#32
  latch := 0x00000000#32
  result := 0x00000000#32
  overrun := false
  phase := .idle
  buf := []
  pend := none
  seq := none
  acc := Acc.zero
  log := []
  busev := []
  hostFaults := []
  hostData := 0#32
  inputs := []
  tick := 0

/-- The machine right after reset, with the default parameters (R8 of 00_scope.md; log 4). -/
def State.reset : State := State.resetWith Params.default

end Sys2Proof.Machine
end

