-- ==== Sys2Proof/Machine/Flags.lean ====
section
/-! DEFINITION. Every flag and status computation: the byte views of CR, SR and HSTAT, the status value, the classification of a mismatch,
the result word. There are no arithmetic flags (R43 of 10_state.md). -/

namespace Sys2Proof.Machine

/-- CR as its 8-bit register (R19 of 10_state.md). -/
def Cr.toByte (c : Cr) : Byte :=
  BitVec.ofBool c.int ++ BitVec.ofBool c.ea ++ BitVec.ofBool c.sta ++ BitVec.ofBool c.sto ++ 0#1 ++ BitVec.ofBool c.en ++ 0#2

/-- SR as its 8-bit register (R27 of 10_state.md). -/
def Sr.toByte (r : Sr) : Byte := r.code ++ 0#1 ++ r.ps

/-- The code in place with zeros below it: the status value of a code (R28, R42 of 10_state.md). -/
def statusOfCode (c : Code) : Byte := c ++ 0#3

/-- The code field of a status constant, v[7:3] (R26, R42: NO_INFO[7:3]). -/
def codeOfStatus (v : Byte) : Code := v.extractLsb' 3 5

/-- The status value of SR: SR & 0xF8 (R28 of 10_state.md; R82 of 41_primitives.md). -/
def Sr.status (r : Sr) : Byte := r.toByte &&& 0xF8#8

/-- The mask of a post-check unless a rule says otherwise (R86 of 41_primitives.md). -/
def fullMask : Byte := 0xF8#8

/-- The mask of the receive post-check (R100 of 41_primitives.md). -/
def receiveMask : Byte := 0xF0#8

/-- The comparison of a post-check: (s & mask) = expected (R86 of 41_primitives.md). -/
def statusPasses (expected mask status : Byte) : Bool := status &&& mask == expected

/-- Classify(expected, s): NACK for the three pairs of an OK constant with its NACK constant, else BUS_ERROR (R87). -/
def classify (p : Params) (expected status : Byte) : ErrKind :=
  if (expected = p.writeAddressOk ∧ status = p.writeAddressNack) ∨
      (expected = p.readAddressOk ∧ status = p.readAddressNack) ∨
      (expected = p.writeDataOk ∧ status = p.writeDataNack)
  then .nack else .busError

/-- ERRKIND codes (R72 of 30_encoding.md). -/
def ErrKind.code : ErrKind → BitVec 4
  | .none => 0#4
  | .timeout => 1#4
  | .nack => 2#4
  | .busError => 3#4
  | .stopTimeout => 4#4
  | .illegalEncoding => 5#4
  | .badArgument => 6#4

/-- ERRPHASE codes (R73 of 30_encoding.md). -/
def ErrPhase.code : ErrPhase → BitVec 4
  | .none => 0#4
  | .start => 1#4
  | .repeatedStart => 2#4
  | .address => 3#4
  | .data => 4#4
  | .receive => 5#4
  | .stop => 6#4
  | .byte => 7#4

/-- PHASE codes (R36 of 10_state.md). -/
def Phase.code : Phase → BitVec 3
  | .idle => 0#3
  | .started => 1#3
  | .addressed => 2#3
  | .data => 3#3
  | .stopped => 4#3

/-- MODE bit of HSTAT (R35 of 10_state.md): 0 FAITHFUL, 1 HARDENED. -/
def modeBit : Mode → BitVec 1
  | .faithful => 0#1
  | .hardened => 1#1

/-- Pack(ACC), the 32-bit result word (R71 of 30_encoding.md). -/
def pack (a : Acc) : Word :=
  0#4 ++ a.errStatus ++ a.errPhase.code ++ a.errKind.code ++ BitVec.ofBool a.aborted ++ BitVec.ofBool a.illegal ++
    BitVec.ofBool a.mismatch ++ BitVec.ofBool a.timeout ++ a.value

/-- The result word of a rejection (R116 of 60_exceptions.md): ILLEGAL = 1, ERRKIND = kind, all other fields 0. -/
def rejectionResult (kind : ErrKind) : Word := pack { Acc.zero with illegal := true, errKind := kind }

/-- HSTAT.BUSY: 1 from acceptance of a command to its finish (R35 of 10_state.md), that is while the sequencer holds CUR (R38; log 5). -/
def State.busy (s : State) : Bool := s.seq.isSome

/-- HSTAT as its 8-bit register (R35 of 10_state.md). -/
def State.hstat (s : State) : Byte :=
  0#2 ++ s.phase.code ++ modeBit s.cfg.mode ++ BitVec.ofBool s.overrun ++ BitVec.ofBool s.busy

/-- MODE = HARDENED. -/
def State.hardened (s : State) : Bool := s.cfg.mode == .hardened

end Sys2Proof.Machine
end

