-- ==== Sys2Proof/Machine/Operands.lean ====
section
/-! DEFINITION. The operand forms: what a command's rule takes from its operand fields (R65 of 30_encoding.md) before it uses them. -/

namespace Sys2Proof.Machine

/-- The address byte: ((addr7 << 1) | rw) & 0xFF (R50 of 20_memory.md; R96, R97 of 41_primitives.md). -/
def addressByte (addr7 : Addr7) (rw : Bool) : Byte :=
  (addr7.setWidth 8 <<< 1) ||| (BitVec.ofBool rw).setWidth 8

/-- The byte count n of a burst, 0 to 255 (R65). -/
def count (n : Byte) : Nat := n.toNat

/-- The receive action an ACK operand chooses (R99). -/
def receiveAction (ack : Bool) : Action := if ack then .recvAck else .recvNack

/-- The acknowledge of burst byte `i` of `n`: ACK for all but the last (R110 of 42_transactions.md). -/
def burstAck (n i : Nat) : Bool := decide (i + 1 < n)

/-- The prescaler of a requested frequency in kHz (R76 of 40_bitrate.md). -/
def prescaler (khz : Nat) : Nat := if khz < 8 then 16 else if khz < 31 then 4 else 1

/-- The SR.PS encoding of the prescaler bands (R76; R30 of 10_state.md). -/
def prescalerCode (khz : Nat) : BitVec 2 := if khz < 8 then 2#2 else if khz < 31 then 1#2 else 0#2

/-- q of R77: floor division on exact naturals. -/
def quotient (fClk khz : Nat) : Nat := fClk / (2000 * prescaler khz * khz)

/-- d of R77. -/
def divider (fClk khz : Nat) : Nat :=
  if 8 ≤ quotient fClk khz then quotient fClk khz - 8 else quotient fClk khz

/-- The value BR takes: d mod 256 (R77). -/
def brValue (fClk khz : Nat) : Byte := BitVec.ofNat 8 (divider fClk khz)

end Sys2Proof.Machine
end

