-- ==== Sys2Proof/WellFormed.lean ====
section
/-! DEFINITION. Which commands the block accepts: the argument check of R69 (30_encoding.md). Every other range that R74 asks of an
operand is the width of its field, which the types of Syntax carry. -/

namespace Sys2Proof

/-- The argument check of R69: SET_BITRATE with KHZ = 0 is a bad argument, every other operand value is accepted. -/
def Instr.wf : Instr → Bool
  | .setBitrate khz => khz != 0#16
  | .init => true
  | .sendStart => true
  | .sendRepeatedStart => true
  | .sendStop => true
  | .sendByte _ => true
  | .sendWriteAddress _ => true
  | .sendReadAddress _ => true
  | .sendData _ => true
  | .receiveByte _ => true
  | .getReceivedByte => true
  | .getStatus => true
  | .readRegister _ _ => true
  | .readRegisters _ _ _ => true
  | .writeRegister _ _ _ => true
  | .writeRegisters _ _ _ => true

end Sys2Proof
end

