-- ==== Sys2Proof/Machine/Ops.lean ====
section
/-! DEFINITION. The named operations over memory and registers that the meanings are written with: BUF, CR writes and disabling, issuing a
bus action, polls, recording errors, acceptance, rejection and finish, reset. The block has no trap (R120, R121 of
60_exceptions.md): recording an error and rejecting a word are the two ways an error is taken, each one operation here. -/

namespace Sys2Proof.Machine

/-! ## BUF (R37 of 10_state.md) -/

/-- The byte at an index, or none where nothing has been written since reset (log 9). -/
def Memory.read : Memory → Nat → Option Byte
  | [], _ => none
  | (a, b) :: rest, i => if a = i then some b else if i < a then none else Memory.read rest i

/-- Write one byte, keeping the indexes strictly rising. -/
def Memory.write : Memory → Nat → Byte → Memory
  | [], i, v => [(i, v)]
  | (a, b) :: rest, i, v =>
    if i < a then (i, v) :: (a, b) :: rest
    else if a = i then (i, v) :: rest
    else (a, b) :: Memory.write rest i v

/-- Indexes strictly rising, from `lo` on, and below 256. -/
def Memory.wfFrom : Nat → Memory → Bool
  | _, [] => true
  | lo, (a, _) :: rest => decide (lo ≤ a) && decide (a < 256) && Memory.wfFrom (a + 1) rest

/-- The canonical form of BUF: 256 bytes, indexes strictly rising. -/
def Memory.wf (m : Memory) : Bool := Memory.wfFrom 0 m

/-! ## Parameters -/

/-- A status constant is a status value: bits 2:0 are 0 (R9 (3) of 00_scope.md). -/
def isStatusValue (v : Byte) : Bool := v &&& 0x07#8 == 0#8

/-- Parameter well-formedness: (1) to (5) of R9 of 00_scope.md, START_SETUP_US ≥ 2 (R8), HOST_BASE a multiple of 0x200 (R46). -/
def Params.wf (p : Params) : Bool :=
  decide (1 ≤ p.fClk) && decide (1 ≤ p.pollBudget) && decide (1 ≤ p.stopBudget) &&
  [p.startOk, p.repeatedStartOk, p.writeAddressOk, p.writeAddressNack, p.writeDataOk, p.writeDataNack,
    p.readAddressOk, p.readAddressNack, p.readDataOk, p.noInfo].all isStatusValue &&
  p.readDataOk &&& 0x0F#8 == 0#8 &&
  decide [p.startOk, p.repeatedStartOk, p.writeAddressOk, p.readAddressOk, p.writeDataOk, p.readDataOk].Nodup &&
  p.writeAddressNack != p.writeAddressOk && p.readAddressNack != p.readAddressOk && p.writeDataNack != p.writeDataOk &&
  decide (2 ≤ p.startSetupUs) && decide (p.hostBase % 0x200 = 0)

/-! ## Control register -/

/-- DisableEffects() (R26 of 10_state.md). -/
def disableEffects (s : State) : State :=
  { s with
    pend := none
    cr := { s.cr with int := false, sta := false, sto := false, ea := false }
    sr := { s.sr with code := codeOfStatus s.cfg.noInfo }
    busev := s.busev ++ [.disabled] }

/-- The fields of CR after a write of `v` (R25 of 10_state.md): bit 7 clears INT where it is 1, the other fields take the written
value. -/
def Cr.written (c : Cr) (v : Byte) : Cr where
  int := if v[7] then false else c.int
  ea := v[6]
  sta := v[5]
  sto := v[4]
  en := v[2]

/-- `CR <- v`, the whole-register write, in one step (R25 of 10_state.md). -/
def writeCr (v : Byte) (s : State) : State :=
  if s.cr.en && !v[2] then disableEffects { s with cr := s.cr.written v }
  else { s with cr := s.cr.written v }

/-! ## Bus actions -/

/-- The CR pattern of an action (R83 of 41_primitives.md). -/
def crPattern : Action → Byte
  | .start => 0xA4#8
  | .stop => 0x94#8
  | .send => 0x84#8
  | .recvAck => 0xC4#8
  | .recvNack => 0x84#8

/-- The byte an issue carries: DR for SEND, else 0 (R83). -/
def issuedByte (a : Action) (s : State) : Byte := if a = .send then s.dr else 0#8

/-- The events of an issue over what is pending (R83, R84). -/
def issueEvents (a : Action) (s : State) : List BusEvent :=
  (match s.pend with
    | none => []
    | some p => [.abandoned p.act]) ++ [.issued a (issuedByte a s)]

/-- Issue(a): start a bus action in one step (R83 of 41_primitives.md). -/
def issue (a : Action) (s : State) : State :=
  { writeCr (crPattern a) s with
    pend := some { act := a, byte := issuedByte a s }
    busev := s.busev ++ issueEvents a s }

/-- The block issues `a` and shows the transaction phase `ph` in the same step (R36 of 10_state.md; log 13). -/
def issueIn (ph : Phase) (a : Action) (s : State) : State := issue a { s with phase := ph }

/-! ## Polls (R81 of 41_primitives.md) -/

/-- What one read of a poll leads to. -/
inductive PollRead where
  /-- The polled condition holds: the poll returns true. -/
  | hit
  /-- Not yet: `k` reads have been made. -/
  | again (k : Nat)
  /-- The last read of the budget failed: the poll returns false. -/
  | miss
  deriving DecidableEq, Repr

/-- One read of a poll that has made `k` reads before it (R81: exactly `budget` reads when it times out). -/
def pollRead (budget k : Nat) (bit : Bool) : PollRead :=
  if bit then .hit else if k + 1 < budget then .again (k + 1) else .miss

/-! ## Recording errors -/

/-- Err(kind, phase, s) on the accumulator: only the first error is named (R115 of 60_exceptions.md). -/
def Acc.err (a : Acc) (kind : ErrKind) (phase : ErrPhase) (status : Byte) : Acc :=
  if a.errKind = .none then { a with errKind := kind, errPhase := phase, errStatus := status } else a

/-- The accumulator after a timeout of any kind: TIMEOUT set and the error recorded (R85 of 41_primitives.md; R94). -/
def Acc.timedOut (a : Acc) (kind : ErrKind) (phase : ErrPhase) (status : Byte) : Acc :=
  Acc.err { a with timeout := true } kind phase status

/-- Timeout(phase), with its read of the status (R85 of 41_primitives.md). -/
def recordTimeout (phase : ErrPhase) (s : State) : State :=
  { s with acc := s.acc.timedOut .timeout phase s.sr.status }

/-- The stop poll's timeout: TIMEOUT, Err(STOP_TIMEOUT, STOP, s), and PHASE IDLE (R94 of 41_primitives.md). -/
def recordStopTimeout (s : State) : State :=
  { s with acc := s.acc.timedOut .stopTimeout .stop s.sr.status, phase := .idle }

/-- A mismatch of a post-check: MISMATCH, Log and Err (R86 of 41_primitives.md; R117 of 60_exceptions.md). -/
def recordMismatch (phase : ErrPhase) (expected : Byte) (s : State) : State :=
  { s with
    acc := Acc.err { s.acc with mismatch := true } (classify s.cfg expected s.sr.status) phase s.sr.status
    log := s.log ++ [{ phase := phase, expected := expected, got := s.sr.status }] }

/-- Check(phase, expected, mask): does the post-check pass? (R86) -/
def checkOk (expected mask : Byte) (s : State) : Bool := statusPasses expected mask s.sr.status

/-- Check(phase, expected, mask): the state it leaves (R86). -/
def check (phase : ErrPhase) (expected mask : Byte) (s : State) : State :=
  if checkOk expected mask s then s else recordMismatch phase expected s

/-! ## Acceptance, rejection, position and finish -/

/-- Acceptance of a command that begins at `first`: ACC cleared, CUR set, BUSY = 1 (R69 of 30_encoding.md). -/
def accept (i : Instr) (first : Pos) (s : State) : State :=
  { s with acc := Acc.zero, seq := some { cur := encode i, pos := first, held := 0#8 } }

/-- raise Illegal(kind): a rejection in the submission step itself (R116 of 60_exceptions.md). -/
def reject (kind : ErrKind) (s : State) : State := { s with result := rejectionResult kind }

/-- The running command stands at another step. -/
def goto (q : Seq) (p : Pos) (s : State) : State := { s with seq := some { q with pos := p } }

/-- `finish`: RESULT <- Pack(ACC), BUSY <- 0, CUR <- none, in one step (R70 of 30_encoding.md). -/
def finish (s : State) : State := { s with result := pack s.acc, seq := none }

/-- `finish` of a composite, which leaves PHASE = IDLE (R107 of 42_transactions.md). Its stop or its toggle has set PHASE before; only
READ_REGISTERS with n = 0, which has neither, comes here with another PHASE (R110; log 20 says why in this step). -/
def finishComposite (s : State) : State := finish { s with phase := .idle }

/-- ACC.VALUE <- v. -/
def setValue (v : Byte) (s : State) : State := { s with acc := { s.acc with value := v } }

/-- The HARDENED abort path: ABORTED <- 1, then the stop (R104 of 42_transactions.md). What follows the stop is the command's own
end: the toggle on read paths only, then finish. -/
def abort (q : Seq) (s : State) : State :=
  goto q (.stop .issue) { s with acc := { s.acc with aborted := true } }

/-- A command at this state: with no command running it is submitted (R69 of 30_encoding.md: a bad argument is rejected, else it is
accepted and begins at `first`); with a command running, `body` performs its next step. -/
def command (i : Instr) (first : Pos) (s : State) (body : Seq → Result) : Result :=
  match s.seq with
  | none => if i.wf then .next (accept i first s) else .next (reject .badArgument s)
  | some q => body q

/-! ## Reset -/

/-- Reset, in one step: every piece of state takes its reset value (R129 of 70_reset_and_hazards.md). The parameters, the host fault
record (never cleared, R118; log 11) and the model's own fields stay. -/
def State.resetBlock (s : State) : State :=
  { State.resetWith s.cfg with
    hostFaults := s.hostFaults
    hostData := s.hostData
    inputs := s.inputs
    tick := s.tick }

end Sys2Proof.Machine
end

