-- ==== Sys2Proof/Machine/Bus.lean ====
section
/-! DEFINITION. The bus agent (R42 of 10_state.md): bus controller, wire and target devices as a second agent that completes the pending
action with a status code and a byte of its own choosing. -/

namespace Sys2Proof.Machine

/-- The bus agent has a step only while PEND ≠ NONE and CR.EN = 1 (R42). -/
def State.busEnabled (s : State) : Bool := s.pend.isSome && s.cr.en

/-- Is the action a receive? -/
def Action.isReceive : Action → Bool
  | .recvAck => true
  | .recvNack => true
  | .start => false
  | .stop => false
  | .send => false

/-- Completion of a STOP (R42): STO cleared, status NO_INFO, INT unchanged. -/
def completeStop (s : State) : State :=
  { s with
    cr := { s.cr with sto := false }
    sr := { s.sr with code := codeOfStatus s.cfg.noInfo }
    busev := s.busev ++ [.completed .stop s.cfg.noInfo 0#8]
    pend := none }

/-- Completion of START, SEND, RECV_ACK or RECV_NACK with the draw (c, b) (R42): DR takes the byte on a receive, INT is set. -/
def completeAction (a : Action) (c : Code) (b : Byte) (s : State) : State :=
  { s with
    sr := { s.sr with code := c }
    dr := if a.isReceive then b else s.dr
    cr := { s.cr with int := true }
    busev := s.busev ++ [.completed a (statusOfCode c) (if a.isReceive then b else 0#8)]
    pend := none }

/-- The bus agent's step with the draw (c, b); a state in which it has none is unchanged (R42). -/
def busStep (c : Code) (b : Byte) (s : State) : State :=
  if s.cr.en then
    match s.pend with
    | none => s
    | some p => if p.act = .stop then completeStop s else completeAction p.act c b s
  else s

end Sys2Proof.Machine
end

