-- ==== Sys2Proof/Machine/Bitrate.lean ====
section
/-! DEFINITION. Family 0x0, bit-rate configuration (40_bitrate.md): SET_BITRATE and INIT. -/

namespace Sys2Proof.Machine

/-- SR.PS <- ps of the band of `khz`; SR.CODE unchanged (R79 step 1). -/
def setPrescaler (khz : Nat) (s : State) : State := { s with sr := { s.sr with ps := prescalerCode khz } }

/-- BR <- d mod 256 (R77; R79 step 2). -/
def setDivider (khz : Nat) (s : State) : State := { s with br := brValue s.cfg.fClk khz }

/-- The byte INIT writes to CR: the current EA, STA and STO, bit 7 written 0 so that INT stays, EN 1 (R80 step 3). -/
def enablePattern (c : Cr) : Byte := Cr.toByte { c with int := false, en := true }

/-- SET_BITRATE khz (R79). -/
def execSetBitrate (khz : BitVec 16) (s : State) : Result :=
  command (.setBitrate khz) .setPs s fun q =>
    match q.pos with
    | .setPs => .next (goto q .setBr (setPrescaler khz.toNat s))
    | .setBr => .next (goto q .finish (setValue (brValue s.cfg.fClk khz.toNat) (setDivider khz.toNat s)))
    | .finish => .next (finish s)
    | _ => .refused .noSuchPosition

/-- INIT (R80): SET_BITRATE's two steps with 100 kHz, then the enable bit. VALUE stays 0. -/
def execInit (s : State) : Result :=
  command .init .setPs s fun q =>
    match q.pos with
    | .setPs => .next (goto q .setBr (setPrescaler 100 s))
    | .setBr => .next (goto q .enable (setDivider 100 s))
    | .enable => .next (goto q .finish (writeCr (enablePattern s.cr) s))
    | .finish => .next (finish s)
    | _ => .refused .noSuchPosition

end Sys2Proof.Machine
end

