-- ==== Sys2Proof/Machine/Procedures.lean ====
section
/-! DEFINITION. The primitive procedures of 41_primitives.md, one step at a time. Each is called by its own command and by the composite
commands of 42_transactions.md, and returns the Boolean `ok` of its rule. -/

namespace Sys2Proof.Machine

/-- What one step of a procedure leads to: another step of it, or its return with `ok`. -/
inductive Ret (P : Type) where
  | stay (s : State) (p : P)
  | ret (s : State) (ok : Bool)

/-- SendStart and SendRepeatedStart (R92, R93): PHASE STARTED and Issue(START); the setup wait, a step without effect (D36); the
completion poll; Timeout; Check, made whether or not the poll completed. -/
def startStep (phase : ErrPhase) (expected : Byte) (p : StartPt) (s : State) : Ret StartPt :=
  match p with
  | .issue => .stay (issueIn .started .start s) .delay
  | .delay => .stay s (.poll 0)
  | .poll k =>
    match pollRead s.cfg.pollBudget k s.cr.int with
    | .hit => .stay s (.check true)
    | .again k' => .stay s (.poll k')
    | .miss => .stay s .timeout
  | .timeout => .stay (recordTimeout phase s) (.check false)
  | .check c => .ret (check phase expected fullMask s) (c && checkOk expected fullMask s)

/-- SendByte(b, phase, ph) (R90), followed by the post-check against `expected` where the caller makes one (R96, R97, R98; SEND_BYTE
makes none, R95). FAITHFUL retries the pre-check's wait without bound and records nothing; HARDENED waits once and
returns false. -/
def sendStep (b : Byte) (phase : ErrPhase) (ph : Phase) (expected : Option Byte) (p : SendPt) (s : State) : Ret SendPt :=
  match p with
  | .ready => if s.cr.int then .stay s .load else .stay s (.wait 0)
  | .wait k =>
    match pollRead s.cfg.pollBudget k s.cr.int with
    | .hit => .stay s .load
    | .again k' => .stay s (.wait k')
    | .miss => if s.hardened then .stay s .waitTimeout else .stay s (.wait 0)
  | .waitTimeout => .ret (recordTimeout phase s) false
  | .load => .stay { s with dr := b } .issue
  | .issue => .stay (issueIn ph .send s) (.poll 0)
  | .poll k =>
    match pollRead s.cfg.pollBudget k s.cr.int with
    | .hit => if expected.isSome then .stay s (.check true) else .ret s true
    | .again k' => .stay s (.poll k')
    | .miss => .stay s .timeout
  | .timeout =>
    if expected.isSome then .stay (recordTimeout phase s) (.check false) else .ret (recordTimeout phase s) false
  | .check c =>
    match expected with
    | some e => .ret (check phase e fullMask s) (c && checkOk e fullMask s)
    | none => .ret s c

/-- SendWriteAddress(addr7) (R96). -/
def writeAddressStep (addr7 : Addr7) (p : SendPt) (s : State) : Ret SendPt :=
  sendStep (addressByte addr7 false) .address .addressed (some s.cfg.writeAddressOk) p s

/-- SendReadAddress(addr7) (R97). -/
def readAddressStep (addr7 : Addr7) (p : SendPt) (s : State) : Ret SendPt :=
  sendStep (addressByte addr7 true) .address .addressed (some s.cfg.readAddressOk) p s

/-- SendData(b) (R98). -/
def dataStep (b : Byte) (p : SendPt) (s : State) : Ret SendPt :=
  sendStep b .data .data (some s.cfg.writeDataOk) p s

/-- ReceiveByte(ack) (R99, R100): no readiness pre-check; the post-check masks with 0xF0. -/
def receiveStep (ack : Bool) (p : RecvPt) (s : State) : Ret RecvPt :=
  match p with
  | .issue => .stay (issueIn .data (receiveAction ack) s) (.poll 0)
  | .poll k =>
    match pollRead s.cfg.pollBudget k s.cr.int with
    | .hit => .stay s (.check true)
    | .again k' => .stay s (.poll k')
    | .miss => .stay s .timeout
  | .timeout => .stay (recordTimeout .receive s) (.check false)
  | .check c =>
    .ret (check .receive s.cfg.readDataOk receiveMask s) (c && checkOk s.cfg.readDataOk receiveMask s)

/-- SendStop() (R94). FAITHFUL spins on CR.STO without bound and counts nothing (R135); HARDENED makes at most STOP_BUDGET reads. -/
def stopStep (p : StopPt) (s : State) : Ret StopPt :=
  match p with
  | .issue => .stay (issueIn .stopped .stop s) (.spin 0)
  | .spin k =>
    if s.hardened then
      match pollRead s.cfg.stopBudget k (!s.cr.sto) with
      | .hit => .ret { s with phase := .idle } true
      | .again k' => .stay s (.spin k')
      | .miss => .stay s .timeout
    else if s.cr.sto then .stay s (.spin k)
    else .ret { s with phase := .idle } true
  | .timeout => .ret (recordStopTimeout s) false

/-- ToggleEnable() (R91): CR <- 0x00, then CR <- 0x04 and PHASE IDLE. -/
def toggleStep (p : TogglePt) (s : State) : Ret TogglePt :=
  match p with
  | .off => .stay (writeCr 0x00#8 s) .on
  | .on => .ret { writeCr 0x04#8 s with phase := .idle } true

/-- Call a procedure and go on to `after` whatever it returns: the command form of a primitive, and the stop and toggle of a
composite. -/
def call {P : Type} (q : Seq) (wrap : P → Pos) (after : State → Bool → State) : Ret P → Result
  | .stay s p => .next (goto q (wrap p) s)
  | .ret s ok => .next (after s ok)

/-- `do P` (R103 of 42_transactions.md): call a procedure; in HARDENED mode a false result takes the abort path, else go on to
`after`. -/
def doCall {P : Type} (q : Seq) (wrap : P → Pos) (after : State → State) : Ret P → Result :=
  call q wrap fun s ok => if s.hardened && !ok then abort q s else after s

end Sys2Proof.Machine
end

