-- ==== Sys2Proof/Machine/Primitives.lean ====
section
/-! DEFINITION. Family 0x1, the primitive commands (41_primitives.md section 2): each is its procedure followed by `finish`; a standalone
primitive never aborts. -/

namespace Sys2Proof.Machine

/-- The command form of a primitive: after the procedure comes `finish`, whatever it returned (R70). -/
def thenFinish (q : Seq) (s : State) (_ok : Bool) : State := goto q .finish s

/-- SEND_START (R92). -/
def execSendStart (s : State) : Result :=
  command .sendStart (.start .issue) s fun q =>
    match q.pos with
    | .start p => call q .start (thenFinish q) (startStep .start s.cfg.startOk p s)
    | .finish => .next (finish s)
    | _ => .refused .noSuchPosition

/-- SEND_REPEATED_START (R93). -/
def execSendRepeatedStart (s : State) : Result :=
  command .sendRepeatedStart (.repeatedStart .issue) s fun q =>
    match q.pos with
    | .repeatedStart p => call q .repeatedStart (thenFinish q) (startStep .repeatedStart s.cfg.repeatedStartOk p s)
    | .finish => .next (finish s)
    | _ => .refused .noSuchPosition

/-- SEND_STOP (R94). -/
def execSendStop (s : State) : Result :=
  command .sendStop (.stop .issue) s fun q =>
    match q.pos with
    | .stop p => call q .stop (thenFinish q) (stopStep p s)
    | .finish => .next (finish s)
    | _ => .refused .noSuchPosition

/-- SEND_BYTE b (R95): SendByte(b, BYTE, DATA), no post-check. -/
def execSendByte (b : Byte) (s : State) : Result :=
  command (.sendByte b) (.byte .ready) s fun q =>
    match q.pos with
    | .byte p => call q .byte (thenFinish q) (sendStep b .byte .data none p s)
    | .finish => .next (finish s)
    | _ => .refused .noSuchPosition

/-- SEND_WRITE_ADDRESS addr7 (R96). -/
def execSendWriteAddress (addr7 : Addr7) (s : State) : Result :=
  command (.sendWriteAddress addr7) (.writeAddress .ready) s fun q =>
    match q.pos with
    | .writeAddress p => call q .writeAddress (thenFinish q) (writeAddressStep addr7 p s)
    | .finish => .next (finish s)
    | _ => .refused .noSuchPosition

/-- SEND_READ_ADDRESS addr7 (R97). -/
def execSendReadAddress (addr7 : Addr7) (s : State) : Result :=
  command (.sendReadAddress addr7) (.readAddress .ready) s fun q =>
    match q.pos with
    | .readAddress p => call q .readAddress (thenFinish q) (readAddressStep addr7 p s)
    | .finish => .next (finish s)
    | _ => .refused .noSuchPosition

/-- SEND_DATA byte (R98). -/
def execSendData (b : Byte) (s : State) : Result :=
  command (.sendData b) (.data 0 .ready) s fun q =>
    match q.pos with
    | .data i p => call q (.data i) (thenFinish q) (dataStep b p s)
    | .finish => .next (finish s)
    | _ => .refused .noSuchPosition

/-- RECEIVE_BYTE ack (R99). -/
def execReceiveByte (ack : Bool) (s : State) : Result :=
  command (.receiveByte ack) (.receive 0 .issue) s fun q =>
    match q.pos with
    | .receive i p => call q (.receive i) (thenFinish q) (receiveStep ack p s)
    | .finish => .next (finish s)
    | _ => .refused .noSuchPosition

/-- GET_RECEIVED_BYTE (R101). -/
def execGetReceivedByte (s : State) : Result :=
  command .getReceivedByte .readDr s fun q =>
    match q.pos with
    | .readDr => .next (goto q .finish (setValue s.dr s))
    | .finish => .next (finish s)
    | _ => .refused .noSuchPosition

/-- GET_STATUS (R102). -/
def execGetStatus (s : State) : Result :=
  command .getStatus .readSr s fun q =>
    match q.pos with
    | .readSr => .next (goto q .finish (setValue s.sr.status s))
    | .finish => .next (finish s)
    | _ => .refused .noSuchPosition

end Sys2Proof.Machine
end

