-- ==== Sys2Proof/Machine/Transactions.lean ====
section
/-! DEFINITION. Family 0x2, the composite transactions (42_transactions.md section 2): fixed sequences of primitive procedures inside one
command. A read ends with the stop and the enable toggle, a write with the stop only (R105), on the abort path too
(R104). -/

namespace Sys2Proof.Machine

/-- The value READ_REGISTER returns (R108, R109): v, but 0 in HARDENED mode when an error was recorded. On the abort path VALUE stays
as the rule left it, 0 (R104). -/
def readRegisterValue (v : Byte) (s : State) : Byte :=
  if s.acc.aborted then s.acc.value
  else if s.hardened && s.acc.errKind != .none then 0#8
  else v

/-- READ_REGISTER addr7, reg (R109). -/
def execReadRegister (addr7 : Addr7) (reg : Byte) (s : State) : Result :=
  command (.readRegister addr7 reg) (.start .issue) s fun q =>
    match q.pos with
    | .start p => doCall q .start (goto q (.writeAddress .ready)) (startStep .start s.cfg.startOk p s)
    | .writeAddress p => doCall q .writeAddress (goto q (.subAddress .ready)) (writeAddressStep addr7 p s)
    | .subAddress p => doCall q .subAddress (goto q (.repeatedStart .issue)) (dataStep reg p s)
    | .repeatedStart p =>
      doCall q .repeatedStart (goto q (.readAddress .ready)) (startStep .repeatedStart s.cfg.repeatedStartOk p s)
    | .readAddress p => doCall q .readAddress (goto q (.receive 0 .issue)) (readAddressStep addr7 p s)
    | .receive i p => doCall q (.receive i) (goto q .readDr) (receiveStep false p s)
    | .readDr => .next (goto { q with held := s.dr } (.stop .issue) s)
    | .stop p => call q .stop (fun t _ => goto q (.toggle .off) t) (stopStep p s)
    | .toggle p =>
      call q .toggle (fun t _ => goto q .finish (setValue (readRegisterValue q.held t) t)) (toggleStep p s)
    | .finish => .next (finishComposite s)
    | _ => .refused .noSuchPosition

/-- Where a burst read goes after `done` bytes: the next receive, or the stop (R110). -/
def readNext (n done : Nat) : Pos := if done < n then .receive done .issue else .stop .issue

/-- READ_REGISTERS addr7, reg, n (R110); n = 0 finishes at once, without bus activity, and leaves PHASE IDLE as every composite
that finishes does (R107). -/
def execReadRegisters (addr7 : Addr7) (reg n : Byte) (s : State) : Result :=
  command (.readRegisters addr7 reg n) (if count n = 0 then .finish else .start .issue) s fun q =>
    match q.pos with
    | .start p => doCall q .start (goto q (.writeAddress .ready)) (startStep .start s.cfg.startOk p s)
    | .writeAddress p => doCall q .writeAddress (goto q (.subAddress .ready)) (writeAddressStep addr7 p s)
    | .subAddress p => doCall q .subAddress (goto q (.repeatedStart .issue)) (dataStep reg p s)
    | .repeatedStart p =>
      doCall q .repeatedStart (goto q (.readAddress .ready)) (startStep .repeatedStart s.cfg.repeatedStartOk p s)
    | .readAddress p => doCall q .readAddress (goto q (readNext (count n) 0)) (readAddressStep addr7 p s)
    | .receive i p => doCall q (.receive i) (goto q (.storeBuf i)) (receiveStep (burstAck (count n) i) p s)
    | .storeBuf i =>
      .next (goto q (readNext (count n) (i + 1))
        (setValue (BitVec.ofNat 8 (i + 1)) { s with buf := s.buf.write i s.dr }))
    | .stop p => call q .stop (fun t _ => goto q (.toggle .off) t) (stopStep p s)
    | .toggle p => call q .toggle (fun t _ => goto q .finish t) (toggleStep p s)
    | .finish => .next (finishComposite s)
    | _ => .refused .noSuchPosition

/-- WRITE_REGISTER addr7, reg, byte (R111). -/
def execWriteRegister (addr7 : Addr7) (reg byte : Byte) (s : State) : Result :=
  command (.writeRegister addr7 reg byte) (.start .issue) s fun q =>
    match q.pos with
    | .start p => doCall q .start (goto q (.writeAddress .ready)) (startStep .start s.cfg.startOk p s)
    | .writeAddress p => doCall q .writeAddress (goto q (.subAddress .ready)) (writeAddressStep addr7 p s)
    | .subAddress p => doCall q .subAddress (goto q (.data 0 .ready)) (dataStep reg p s)
    | .data i p => doCall q (.data i) (goto q (.stop .issue)) (dataStep byte p s)
    | .stop p => call q .stop (fun t _ => goto q .finish t) (stopStep p s)
    | .finish => .next (finishComposite s)
    | _ => .refused .noSuchPosition

/-- Where a burst write goes after `done` bytes: the next buffer byte, or the stop (R112). -/
def writeNext (n done : Nat) : Pos := if done < n then .loadBuf done else .stop .issue

/-- WRITE_REGISTERS addr7, reg, n (R112); n = 0 is a full transaction without data bytes. Reading a buffer byte that nothing has
written since reset is a fault (R112; U6). -/
def execWriteRegisters (addr7 : Addr7) (reg n : Byte) (s : State) : Result :=
  command (.writeRegisters addr7 reg n) (.start .issue) s fun q =>
    match q.pos with
    | .start p => doCall q .start (goto q (.writeAddress .ready)) (startStep .start s.cfg.startOk p s)
    | .writeAddress p => doCall q .writeAddress (goto q (.subAddress .ready)) (writeAddressStep addr7 p s)
    | .subAddress p => doCall q .subAddress (goto q (writeNext (count n) 0)) (dataStep reg p s)
    | .loadBuf i =>
      match s.buf.read i with
      | some b => .next (goto { q with held := b } (.data i .ready) s)
      | none => .fault (.bufUnwritten i)
    | .data i p =>
      doCall q (.data i) (fun t => goto q (writeNext (count n) (i + 1)) (setValue (BitVec.ofNat 8 (i + 1)) t))
        (dataStep q.held p s)
    | .stop p => call q .stop (fun t _ => goto q .finish t) (stopStep p s)
    | .finish => .next (finishComposite s)
    | _ => .refused .noSuchPosition

end Sys2Proof.Machine
end

