-- ==== Sys2Proof/Machine/Dispatch.lean ====
section
/-! DEFINITION. One arm per command: with no command running the command is submitted, else the running command takes its next step. -/

namespace Sys2Proof.Machine

def exec (i : Instr) (s : State) : Host.Outcome State Fault Refusal :=
  match i with
  | .setBitrate khz => Sys2Proof.Machine.execSetBitrate khz s
  | .init => Sys2Proof.Machine.execInit s
  | .sendStart => Sys2Proof.Machine.execSendStart s
  | .sendRepeatedStart => Sys2Proof.Machine.execSendRepeatedStart s
  | .sendStop => Sys2Proof.Machine.execSendStop s
  | .sendByte byte => Sys2Proof.Machine.execSendByte byte s
  | .sendWriteAddress addr7 => Sys2Proof.Machine.execSendWriteAddress addr7 s
  | .sendReadAddress addr7 => Sys2Proof.Machine.execSendReadAddress addr7 s
  | .sendData byte => Sys2Proof.Machine.execSendData byte s
  | .receiveByte ack => Sys2Proof.Machine.execReceiveByte ack s
  | .getReceivedByte => Sys2Proof.Machine.execGetReceivedByte s
  | .getStatus => Sys2Proof.Machine.execGetStatus s
  | .readRegister addr7 reg => Sys2Proof.Machine.execReadRegister addr7 reg s
  | .readRegisters addr7 reg n => Sys2Proof.Machine.execReadRegisters addr7 reg n s
  | .writeRegister addr7 reg byte => Sys2Proof.Machine.execWriteRegister addr7 reg byte s
  | .writeRegisters addr7 reg n => Sys2Proof.Machine.execWriteRegisters addr7 reg n s

end Sys2Proof.Machine
end

