-- ==== Sys2Proof/Machine/HostPort.lean ====
section
/-! DEFINITION. The host window (20_memory.md): reads and writes of CMD, RESULT, HSTAT and BUF, and the submission of a command. -/

namespace Sys2Proof.Machine

/-- The bytes of the window (R45). -/
def windowSize : Nat := 0x200

/-- The offset of an address in the window, or none outside it (R45, R46). -/
def windowOffset (p : Params) (addr : Nat) : Option Nat :=
  if p.hostBase ≤ addr ∧ addr < p.hostBase + windowSize then some (addr - p.hostBase) else none

/-- Replace byte `j` (0 to 3) of a word (R49). -/
def setByteOfWord (w : Word) (j : Nat) (b : Byte) : Word :=
  wordOfBytes (if j = 0 then b else byteOfWord w 0) (if j = 1 then b else byteOfWord w 1)
    (if j = 2 then b else byteOfWord w 2) (if j = 3 then b else byteOfWord w 3)

/-- Record a host fault; it is never cleared and makes no state final (R118 of 60_exceptions.md). -/
def recordHostFault (f : HostFault) (s : State) : State := { s with hostFaults := s.hostFaults ++ [f] }

/-- A host read returns a value; it has no side effect in the window (R57). -/
def returnData (v : Word) (s : State) : State := { s with hostData := v }

/-- A free value of the width of an access of `size` bytes (U4, U5: any value of the stated width; log 8). -/
def freeData (size : Nat) (s : State) : Word := ((Config.readData s.tick).setWidth (8 * size)).setWidth 32

/-- A read that is not admitted: host fault, and the data is a free value of the access's width (R55, R51; U4, U5; log 8). -/
def freeRead (f : HostFault) (size : Nat) (s : State) : State :=
  { recordHostFault f s with hostData := freeData size s, tick := s.tick + 1 }

/-- An 8-bit host read at a window offset (R46, R47, R49, R55). A read of BUF while BUSY = 1, of a byte that nothing has written since
reset, meets both R55 (U4: any byte, the machine goes on) and R44 (U6: a fault): R55 is followed, BUSY judged before the byte,
DESIGN CHOICE (log 9). -/
def hostRead8 (off : Nat) (s : State) : Result :=
  if off < 0x004 then .next (returnData ((byteOfWord s.cmd off).setWidth 32) s)
  else if off < 0x008 then .next (returnData ((byteOfWord s.result (off - 0x004)).setWidth 32) s)
  else if off = 0x008 then .next (returnData (s.hstat.setWidth 32) s)
  else if off < 0x100 then .next (returnData 0#32 s)
  else if s.busy then .next (freeRead .bufWhileBusy 1 s)
  else
    match s.buf.read (off - 0x100) with
    | some b => .next (returnData (b.setWidth 32) s)
    | none => .fault (.bufUnwritten (off - 0x100))

/-- A 32-bit host read: CMD or RESULT, nothing else is admitted (R51, R52). At an offset of BUF while BUSY = 1 it breaks R55 too: only
accessNotAdmitted is recorded, DESIGN CHOICE (log 8); of BUF bytes that nothing has written it reads a free value too, DESIGN CHOICE
(log 9). -/
def hostRead32 (off : Nat) (s : State) : Result :=
  if off = 0x000 then .next (returnData s.cmd s)
  else if off = 0x004 then .next (returnData s.result s)
  else .next (freeRead .accessNotAdmitted 4 s)

/-- Submission of a complete word (R53, R69 of 30_encoding.md): CMD keeps it; while BUSY = 1 it is dropped, sets OVERRUN and is a host
fault (R54, R118), before it is decoded (R119); an illegal word is rejected (R68, R116); a command is accepted or
rejected by its own meaning. -/
def submit (w : Word) (s : State) : Result :=
  let s := { s with cmd := w, latch := w }
  if s.busy then .next (recordHostFault .submitWhileBusy { s with overrun := true })
  else
    match decode w with
    | .ok i => exec i s
    | .error _ => .next (reject .illegalEncoding s)

/-- A host write of one byte of BUF: while BUSY = 1 a host fault, and whether it lands is a free value (R55; U4; log 8). -/
def hostWriteBuf (i : Nat) (b : Byte) (s : State) : State :=
  if s.busy then
    { recordHostFault .bufWhileBusy s with
      buf := if Config.writeLands s.tick then s.buf.write i b else s.buf
      tick := s.tick + 1 }
  else { s with buf := s.buf.write i b }

/-- An 8-bit host write at a window offset: offsets 0 to 2 of CMD latch, offset 3 latches and submits (R53); RESULT ignores writes
(R34 of 10_state.md); HSTAT clears OVERRUN where bit 1 is written 1 (R35); reserved offsets ignore writes (R47). -/
def hostWrite8 (off : Nat) (b : Byte) (s : State) : Result :=
  if off < 0x003 then .next { s with latch := setByteOfWord s.latch off b }
  else if off = 0x003 then submit (setByteOfWord s.latch 3 b) s
  else if off < 0x008 then .next s
  else if off = 0x008 then .next { s with overrun := s.overrun && !b[1] }
  else if off < 0x100 then .next s
  else .next (hostWriteBuf (off - 0x100) b s)

/-- A 32-bit host write: to CMD it latches and submits (R53); to RESULT it is ignored (R34 of 10_state.md; log 15); nothing else is
admitted (R51). At an offset of BUF while BUSY = 1 it breaks R55 too: only accessNotAdmitted is recorded and nothing lands,
DESIGN CHOICE (log 8). -/
def hostWrite32 (off : Nat) (w : Word) (s : State) : Result :=
  if off = 0x000 then submit w s
  else if off = 0x004 then .next s
  else .next (recordHostFault .accessNotAdmitted s)

/-- One host access. An address outside the window does not reach the block (log 10); a size other than 8 or 32 bits is not admitted
(R51); where it also touches BUF while BUSY = 1, which breaks R55 too, the one fault accessNotAdmitted is recorded, because the
width is judged before the offset: DESIGN CHOICE (log 8). A read so recorded does not stop at a BUF byte that nothing has written:
DESIGN CHOICE (log 9). -/
def hostAccess (a : HostAccess) (s : State) : Result :=
  match a with
  | .read addr size =>
    match windowOffset s.cfg addr with
    | none => .fault (.outsideWindow addr)
    | some off =>
      if size = 1 then hostRead8 off s
      else if size = 4 then hostRead32 off s
      else .next (freeRead .accessNotAdmitted size s)
  | .write addr size data =>
    match windowOffset s.cfg addr with
    | none => .fault (.outsideWindow addr)
    | some off =>
      if size = 1 then hostWrite8 off (byteOfWord data 0) s
      else if size = 4 then hostWrite32 off data s
      else .next (recordHostFault .accessNotAdmitted s)

end Sys2Proof.Machine
end

