-- ==== Sys2Proof/Machine/Agents.lean ====
section
/-! DEFINITION. Which agent moves and what its move does (R13 of 00_scope.md; R42 of 10_state.md; R59 of 20_memory.md). -/

namespace Sys2Proof.Machine

/-- The sequencer's turn: it decodes CUR and performs that command's next step; with no command running it waits for a submission
(R38 of 10_state.md; R130 of 70_reset_and_hazards.md). -/
def sequencerTurn (s : State) : Result :=
  match s.seq with
  | none => .next s
  | some q =>
    match decode q.cur with
    | .ok i => exec i s
    | .error _ => .refused .noSuchPosition

/-- A move that an input gives. A bus move in a state where the bus agent has no step changes nothing (R42). -/
def applyMove (m : Move) (s : State) : Result :=
  match m with
  | .sequencer => sequencerTurn s
  | .bus c b => .next (busStep c b s)
  | .host a => hostAccess a s
  | .reset => .next s.resetBlock

/-- The turn when no input is listed: where the bus agent may move, whether it does and what it draws are free values (R42; U7, U8;
log 2); else the sequencer moves. -/
def freeTurn (s : State) : Result :=
  if s.busEnabled then
    let t := { s with tick := s.tick + 1 }
    if Config.busMoves s.tick then .next (busStep (Config.busCode s.tick) (Config.busByte s.tick) t)
    else sequencerTurn t
  else sequencerTurn s

/-- One transition of the machine: the next input's move, or the free turn. -/
def turn (s : State) : Result :=
  match s.inputs with
  | m :: rest => applyMove m { s with inputs := rest }
  | [] => freeTurn s

/-- The host's write of a complete word to CMD, next in the inputs of a block that runs no command: what a submission takes
(R53 of 20_memory.md; R69 of 30_encoding.md; log 3). -/
def State.submitNext (s : State) (w : Word) : State :=
  { s with seq := none, inputs := .host (.write s.cfg.hostBase 4 w) :: s.inputs }

end Sys2Proof.Machine
end

