-- ==== Sys2Proof/Machine/Step.lean ====
section
/-! DEFINITION. One step of the machine: a parameter set that breaks R9 (00_scope.md) is refused, else one agent makes one move. -/

namespace Sys2Proof.Machine

/-- One transition (Machine/Agents.lean), for a well-formed parameter set (R9 of 00_scope.md). -/
def step (s : State) : Host.Outcome State Fault Refusal :=
  if Params.wf s.cfg then turn s else .refused .badParameters

/-- The state in which the very next step submits the command word `w` (log 3). -/
def State.withFetchWord (s : State) (nbits w : Nat) : State := s.submitNext (BitVec.ofNat 32 (w % 2 ^ nbits))

end Sys2Proof.Machine
end

