-- ==== Sys2Proof/Safety.lean ====
section
/-! DEFINITION. The terms claims are stated in: admitted runs, the invariant of the block, which position belongs to which command, runs of
one command along a list of moves, and the schedules of a bus that answers at once. Nothing of the machine depends on this
file. -/

namespace Sys2Proof.Machine

/-! ## Admitted runs -/

/-- No host fault has been recorded: the run so far is admitted (R118 of 60_exceptions.md; 93_implementation_defined.md). -/
def State.admitted (s : State) : Bool := s.hostFaults.isEmpty

/-! ## Which position belongs to which command (R38 of 10_state.md) -/

/-- The first step of each command's rule (R69 of 30_encoding.md: "begin the rule of w's row at its first step"). -/
def firstPos : Instr → Pos
  | .setBitrate _ => .setPs
  | .init => .setPs
  | .sendStart => .start .issue
  | .sendRepeatedStart => .repeatedStart .issue
  | .sendStop => .stop .issue
  | .sendByte _ => .byte .ready
  | .sendWriteAddress _ => .writeAddress .ready
  | .sendReadAddress _ => .readAddress .ready
  | .sendData _ => .data 0 .ready
  | .receiveByte _ => .receive 0 .issue
  | .getReceivedByte => .readDr
  | .getStatus => .readSr
  | .readRegister _ _ => .start .issue
  | .readRegisters _ _ n => if n = 0#8 then .finish else .start .issue
  | .writeRegister _ _ _ => .start .issue
  | .writeRegisters _ _ _ => .start .issue

/-- The positions a composite read shares with a composite write: its opening, its stop and its finish. -/
def posOpening : Pos → Bool
  | .start _ => true
  | .writeAddress _ => true
  | .subAddress _ => true
  | .stop _ => true
  | .finish => true
  | _ => false

/-- The positions both composite reads have besides (R109, R110 of 42_transactions.md). -/
def posReading : Pos → Bool
  | .repeatedStart _ => true
  | .readAddress _ => true
  | .toggle _ => true
  | p => posOpening p

/-- May the sequencer stand at this position while it runs this command? -/
def posFits (i : Instr) (p : Pos) : Bool :=
  match i with
  | .setBitrate _ => match p with | .setPs => true | .setBr => true | .finish => true | _ => false
  | .init => match p with | .setPs => true | .setBr => true | .enable => true | .finish => true | _ => false
  | .sendStart => match p with | .start _ => true | .finish => true | _ => false
  | .sendRepeatedStart => match p with | .repeatedStart _ => true | .finish => true | _ => false
  | .sendStop => match p with | .stop _ => true | .finish => true | _ => false
  | .sendByte _ => match p with | .byte r => (match r with | .check _ => false | _ => true) | .finish => true | _ => false
  | .sendWriteAddress _ => match p with | .writeAddress _ => true | .finish => true | _ => false
  | .sendReadAddress _ => match p with | .readAddress _ => true | .finish => true | _ => false
  | .sendData _ => match p with | .data k _ => k == 0 | .finish => true | _ => false
  | .receiveByte _ => match p with | .receive k _ => k == 0 | .finish => true | _ => false
  | .getReceivedByte => match p with | .readDr => true | .finish => true | _ => false
  | .getStatus => match p with | .readSr => true | .finish => true | _ => false
  | .readRegister _ _ => match p with | .receive k _ => k == 0 | .readDr => true | _ => posReading p
  | .readRegisters _ _ n =>
    match p with | .receive k _ => decide (k < n.toNat) | .storeBuf k => decide (k < n.toNat) | _ => posReading p
  | .writeRegister _ _ _ => match p with | .data k _ => k == 0 | _ => posOpening p
  | .writeRegisters _ _ n =>
    match p with | .data k _ => decide (k < n.toNat) | .loadBuf k => decide (k < n.toNat) | _ => posOpening p

/-- CUR is an accepted command and the position is one of its own; no command running is fine. -/
def State.positionFits (s : State) : Bool :=
  match s.seq with
  | none => true
  | some q =>
    match decode q.cur with
    | .ok i => i.wf && posFits i q.pos
    | .error _ => false

/-! ## The controller's invariant -/

/-- Between the two writes of ToggleEnable the controller is disabled and nothing is pending (R26 of 10_state.md, R91 of
41_primitives.md). -/
def State.toggling (s : State) : Bool :=
  match s.seq with
  | some q => decide (q.pos = .toggle .on)
  | none => false

/-- What CR and PEND say of each other: an action is pending only while EN = 1; INT = 1 only while none is pending; STO = 1 exactly
while a STOP is pending; between the toggle's writes EN = 0 (R20, R23, R24, R26, R39, R42 of 10_state.md). -/
structure State.ControllerInv (s : State) : Prop where
  pendingEnabled : s.pend.isSome = true → s.cr.en = true
  intIdle : s.cr.int = true → s.pend = none
  stoIsStop : s.cr.sto = true ↔ ∃ b, s.pend = some { act := .stop, byte := b }
  togglingDisabled : s.toggling = true → s.cr.en = false

/-- What ACC says while and after a command runs: an error is named exactly when TIMEOUT or MISMATCH is set; ILLEGAL is never set in
ACC; FAITHFUL never aborts and never names STOP_TIMEOUT (R40 of 10_state.md; R94, R103 to R104, R114, R115). -/
structure State.AccInv (s : State) : Prop where
  named : s.acc.errKind = .none ↔ s.acc.timeout = false ∧ s.acc.mismatch = false
  notIllegal : s.acc.illegal = false
  faithfulNotAborted : s.cfg.mode = .faithful → s.acc.aborted = false
  faithfulNoStopTimeout : s.cfg.mode = .faithful → s.acc.errKind ≠ .stopTimeout

/-- In FAITHFUL mode the sequencer never stands at a step that only HARDENED mode has (R90, R94 of 41_primitives.md). -/
def hardenedOnly : Pos → Bool
  | .stop .timeout => true
  | .byte .waitTimeout => true
  | .writeAddress .waitTimeout => true
  | .readAddress .waitTimeout => true
  | .subAddress .waitTimeout => true
  | .data _ .waitTimeout => true
  | _ => false

/-- FAITHFUL mode stands at no step of HARDENED mode. -/
def State.modeFits (s : State) : Bool :=
  match s.seq with
  | none => true
  | some q => decide (s.cfg.mode = .hardened) || !hardenedOnly q.pos

/-! ## Runs of one command -/

/-- The run of command `i` along a list of moves: a sequencer move is one `exec i` while the command runs (and nothing once it has
finished), every other move is the machine's own. -/
def execMoves (i : Instr) : List Move → State → Result
  | [], s => .next s
  | .sequencer :: ms, s =>
    if s.busy then
      match exec i s with
      | .next t => execMoves i ms t
      | .fault f => .fault f
      | .refused r => .refused r
    else execMoves i ms s
  | .bus c b :: ms, s => execMoves i ms (busStep c b s)
  | .host a :: ms, s =>
    match hostAccess a s with
    | .next t => execMoves i ms t
    | .fault f => .fault f
    | .refused r => .refused r
  | .reset :: ms, s => execMoves i ms s.resetBlock

/-- Sequencer moves and bus moves only: what happens inside a command when the host keeps its hands off. -/
def Move.internal : Move → Bool
  | .sequencer => true
  | .bus _ _ => true
  | .host _ => false
  | .reset => false

/-- `k` sequencer moves with no bus move between them. -/
def sequencerMoves (k : Nat) : List Move := List.replicate k .sequencer

/-! ### Schedules of a bus that completes each action before the next sequencer step -/

/-- SendStart: issue, completion, setup wait, one poll read, post-check. -/
def startMoves (c : Code) (b : Byte) : List Move := [.sequencer, .bus c b, .sequencer, .sequencer, .sequencer]

/-- SendByte with its post-check, INT = 1 before it: ready, load, issue, completion, one poll read, post-check. -/
def sendMoves (c : Code) (b : Byte) : List Move :=
  [.sequencer, .sequencer, .sequencer, .bus c b, .sequencer, .sequencer]

/-- ReceiveByte: issue, completion, one poll read, post-check. -/
def receiveMoves (c : Code) (b : Byte) : List Move := [.sequencer, .bus c b, .sequencer, .sequencer]

/-- SendStop: issue, completion, one read of STO. -/
def stopMoves (c : Code) (b : Byte) : List Move := [.sequencer, .bus c b, .sequencer]

/-- ToggleEnable: its two writes of CR. -/
def toggleMoves : List Move := [.sequencer, .sequencer]

/-- One bus answer: a status code and a byte. -/
abbrev Answer := Code × Byte

/-- The opening of every composite: start, write address, sub-address. -/
def openingMoves (a1 a2 a3 : Answer) : List Move :=
  startMoves a1.1 a1.2 ++ (sendMoves a2.1 a2.2 ++ sendMoves a3.1 a3.2)

/-- The opening of a read: the opening, repeated start, read address. -/
def readOpeningMoves (a1 a2 a3 a4 a5 : Answer) : List Move :=
  openingMoves a1 a2 a3 ++ (startMoves a4.1 a4.2 ++ sendMoves a5.1 a5.2)

/-- Burst receives: each a receive and the store of its byte. -/
def burstReadMoves : List Answer → List Move
  | [] => []
  | a :: as => receiveMoves a.1 a.2 ++ (.sequencer :: burstReadMoves as)

/-- Burst sends: each the read of the buffer byte and its send. -/
def burstWriteMoves : List Answer → List Move
  | [] => []
  | a :: as => .sequencer :: (sendMoves a.1 a.2 ++ burstWriteMoves as)

/-! ### What a primitive leaves in ACC, LOG and RESULT -/

/-- ACC after a post-check with no timeout before it: nothing where it passes, else the mismatch named with its status (R86 of
41_primitives.md). -/
def checkedAcc (kind : ErrKind) (phase : ErrPhase) (status : Byte) (ok : Bool) : Acc :=
  if ok then Acc.zero
  else { Acc.zero with mismatch := true, errKind := kind, errPhase := phase, errStatus := status }

/-- ACC after a timeout whose post-check `ok` passes or not: TIMEOUT is the named error, MISMATCH only a flag (R85, R86 of
41_primitives.md; R115, R119 of 60_exceptions.md). -/
def timeoutAcc (phase : ErrPhase) (status : Byte) (ok : Bool) : Acc :=
  { Acc.zero with timeout := true, mismatch := !ok, errKind := .timeout, errPhase := phase, errStatus := status }

/-- The log record of a post-check that fails (R117 of 60_exceptions.md). -/
def mismatchLog (phase : ErrPhase) (expected status : Byte) (ok : Bool) : List LogEntry :=
  if ok then [] else [{ phase := phase, expected := expected, got := status }]

/-! ### Polls -/

/-- The completion poll a position stands in, with `k` reads made; none where the position is no completion poll (R81). -/
def pollWith : Pos → Nat → Option Pos
  | .start (.poll _), k => some (.start (.poll k))
  | .repeatedStart (.poll _), k => some (.repeatedStart (.poll k))
  | .byte (.poll _), k => some (.byte (.poll k))
  | .writeAddress (.poll _), k => some (.writeAddress (.poll k))
  | .readAddress (.poll _), k => some (.readAddress (.poll k))
  | .subAddress (.poll _), k => some (.subAddress (.poll k))
  | .data i (.poll _), k => some (.data i (.poll k))
  | .receive i (.poll _), k => some (.receive i (.poll k))
  | _, _ => none

/-- Where a completion poll goes when it times out: the Timeout of its primitive (R85). -/
def pollTimeout : Pos → Option Pos
  | .start (.poll _) => some (.start .timeout)
  | .repeatedStart (.poll _) => some (.repeatedStart .timeout)
  | .byte (.poll _) => some (.byte .timeout)
  | .writeAddress (.poll _) => some (.writeAddress .timeout)
  | .readAddress (.poll _) => some (.readAddress .timeout)
  | .subAddress (.poll _) => some (.subAddress .timeout)
  | .data i (.poll _) => some (.data i .timeout)
  | .receive i (.poll _) => some (.receive i .timeout)
  | _ => none

/-- Where a completion poll goes when it reads CR.INT = 1: the post-check of its primitive, or the end of SEND_BYTE. -/
def pollDone : Pos → Option Pos
  | .start (.poll _) => some (.start (.check true))
  | .repeatedStart (.poll _) => some (.repeatedStart (.check true))
  | .byte (.poll _) => some .finish
  | .writeAddress (.poll _) => some (.writeAddress (.check true))
  | .readAddress (.poll _) => some (.readAddress (.check true))
  | .subAddress (.poll _) => some (.subAddress (.check true))
  | .data i (.poll _) => some (.data i (.check true))
  | .receive i (.poll _) => some (.receive i (.check true))
  | _ => none

/-- The pre-check wait of SendByte a position stands in, with `k` reads made (R90). -/
def waitWith : Pos → Nat → Option Pos
  | .byte (.wait _), k => some (.byte (.wait k))
  | .writeAddress (.wait _), k => some (.writeAddress (.wait k))
  | .readAddress (.wait _), k => some (.readAddress (.wait k))
  | .subAddress (.wait _), k => some (.subAddress (.wait k))
  | .data i (.wait _), k => some (.data i (.wait k))
  | _, _ => none

/-- The position is the post-check of a primitive that a composite calls with `do`, with its poll's `c`; the phase, the expected
status and the mask of that check (R86, R92, R93, R96 to R99, R103). -/
def checkSite (p : Params) : Pos → Option (Bool × ErrPhase × Byte × Byte)
  | .start (.check c) => some (c, .start, p.startOk, 0xF8#8)
  | .repeatedStart (.check c) => some (c, .repeatedStart, p.repeatedStartOk, 0xF8#8)
  | .writeAddress (.check c) => some (c, .address, p.writeAddressOk, 0xF8#8)
  | .readAddress (.check c) => some (c, .address, p.readAddressOk, 0xF8#8)
  | .subAddress (.check c) => some (c, .data, p.writeDataOk, 0xF8#8)
  | .data _ (.check c) => some (c, .data, p.writeDataOk, 0xF8#8)
  | .receive _ (.check c) => some (c, .receive, p.readDataOk, 0xF0#8)
  | _ => none

/-- A composite command (R67 of 30_encoding.md, family 0x2). -/
def isComposite : Instr → Bool
  | .readRegister _ _ => true
  | .readRegisters _ _ _ => true
  | .writeRegister _ _ _ => true
  | .writeRegisters _ _ _ => true
  | _ => false

/-- The state a command's finish leaves: RESULT = Pack(ACC) and no CUR (R70 of 30_encoding.md), and of a composite PHASE IDLE (R107 of
42_transactions.md). -/
def finishOf (i : Instr) (s : State) : State := if isComposite i then finishComposite s else finish s

/-- Where a composite goes after the post-check of a primitive that passed, read from the pseudocode of R109 to R112
(42_transactions.md). -/
def afterCheck : Instr → Pos → Option Pos
  | .readRegister _ _, .start _ => some (.writeAddress .ready)
  | .readRegister _ _, .writeAddress _ => some (.subAddress .ready)
  | .readRegister _ _, .subAddress _ => some (.repeatedStart .issue)
  | .readRegister _ _, .repeatedStart _ => some (.readAddress .ready)
  | .readRegister _ _, .readAddress _ => some (.receive 0 .issue)
  | .readRegister _ _, .receive _ _ => some .readDr
  | .readRegisters _ _ _, .start _ => some (.writeAddress .ready)
  | .readRegisters _ _ _, .writeAddress _ => some (.subAddress .ready)
  | .readRegisters _ _ _, .subAddress _ => some (.repeatedStart .issue)
  | .readRegisters _ _ _, .repeatedStart _ => some (.readAddress .ready)
  | .readRegisters _ _ n, .readAddress _ => some (if n = 0#8 then .stop .issue else .receive 0 .issue)
  | .readRegisters _ _ _, .receive k _ => some (.storeBuf k)
  | .writeRegister _ _ _, .start _ => some (.writeAddress .ready)
  | .writeRegister _ _ _, .writeAddress _ => some (.subAddress .ready)
  | .writeRegister _ _ _, .subAddress _ => some (.data 0 .ready)
  | .writeRegister _ _ _, .data _ _ => some (.stop .issue)
  | .writeRegisters _ _ _, .start _ => some (.writeAddress .ready)
  | .writeRegisters _ _ _, .writeAddress _ => some (.subAddress .ready)
  | .writeRegisters _ _ n, .subAddress _ => some (if n = 0#8 then .stop .issue else .loadBuf 0)
  | .writeRegisters _ _ n, .data k _ => some (if k + 1 < n.toNat then .loadBuf (k + 1) else .stop .issue)
  | _, _ => none

/-- VALUE after such a check: WRITE_REGISTERS counts the byte sent, every other check leaves VALUE (R112 of 42_transactions.md). -/
def valueAfterCheck : Instr → Pos → Byte → Byte
  | .writeRegisters _ _ _, .data k _, _ => BitVec.ofNat 8 (k + 1)
  | _, _, v => v

/-! ### The bus events of such a run -/

/-- The event of an issue over what is pending, or nothing (R84 of 41_primitives.md). -/
def abandonEvents : Option Pending → List BusEvent
  | none => []
  | some p => [.abandoned p.act]

/-- An action issued with byte `b` and completed with code `c`; `r` is the byte received, 0 but for a receive (R41, R42). -/
def actionEvents (a : Action) (b : Byte) (c : Code) (r : Byte) : List BusEvent :=
  [.issued a b, .completed a (statusOfCode c) r]

/-- A STOP issued and completed (R42). -/
def stopEvents (p : Params) : List BusEvent := [.issued .stop 0#8, .completed .stop p.noInfo 0#8]

/-- The events of a composite's opening for address byte `w` and sub-address `reg`. -/
def openingEvents (w reg : Byte) (a1 a2 a3 : Answer) : List BusEvent :=
  actionEvents .start 0#8 a1.1 0#8 ++ (actionEvents .send w a2.1 0#8 ++ actionEvents .send reg a3.1 0#8)

/-- The events of a read's opening. -/
def readOpeningEvents (w reg r : Byte) (a1 a2 a3 a4 a5 : Answer) : List BusEvent :=
  openingEvents w reg a1 a2 a3 ++ (actionEvents .start 0#8 a4.1 0#8 ++ actionEvents .send r a5.1 0#8)

/-- The events of burst receives: RECV_ACK for all but the last, RECV_NACK for the last (R110 of 42_transactions.md). -/
def burstReadEvents : List Answer → List BusEvent
  | [] => []
  | [a] => actionEvents .recvNack 0#8 a.1 a.2
  | a :: as => actionEvents .recvAck 0#8 a.1 a.2 ++ burstReadEvents as

/-- The events of burst sends of the bytes `bs`. -/
def burstWriteEvents : List Byte → List Answer → List BusEvent
  | b :: bs, a :: as => actionEvents .send b a.1 0#8 ++ burstWriteEvents bs as
  | _, _ => []

/-- The answer's status is the constant. -/
def Answer.isStatus (a : Answer) (v : Byte) : Prop := statusOfCode a.1 = v

/-- The answer passes the receive post-check (R100 of 41_primitives.md). -/
def Answer.isReceiveOk (a : Answer) (p : Params) : Prop := statusOfCode a.1 &&& 0xF0#8 = p.readDataOk

/-- Opening answered as expected: START_OK, WRITE_ADDRESS_OK, WRITE_DATA_OK. -/
def openingOk (p : Params) (a1 a2 a3 : Answer) : Prop :=
  a1.isStatus p.startOk ∧ a2.isStatus p.writeAddressOk ∧ a3.isStatus p.writeDataOk

/-- Read opening answered as expected. -/
def readOpeningOk (p : Params) (a1 a2 a3 a4 a5 : Answer) : Prop :=
  openingOk p a1 a2 a3 ∧ a4.isStatus p.repeatedStartOk ∧ a5.isStatus p.readAddressOk

end Sys2Proof.Machine
end

