-- ==== Sys2Proof/Certificates/Slice0/Obligations.lean ====
section
/-! DEFINITION. The statements for the provers. A statement's docstring names the rule of spec/ it formalises, or says what in it is the
model's own choice. -/

open Sys2Proof Sys2Proof.Machine

/-! ## Command words (30_encoding.md) -/

/-- Decoding the word of a command gives the command back, every operand at every value (R65 to R67). -/
def Obligations.DecodeOfEncodeIsTheCommand : Prop :=
  ∀ i : Instr, decode (encode i) = .ok i

/-- A legal word has one meaning: it is the encoding of what it decodes to, so no bit of it is dropped (R65 to R68). -/
def Obligations.EncodeOfDecodedIsTheWord : Prop :=
  ∀ (w : Word) (i : Instr), decode w = .ok i → encode i = w

/-- R67: "A word `w` is the command in a row when `w & mask = match`, with the mask of the row's format (rule R66). No two rows match the
same word." The operands are the row's fields of the word, at the bits of R65. -/
def Obligations.WordIsCommandOfItsOpcodeRow : Prop :=
  (∀ (w : Word) (r : OpcodeRow), r ∈ opcodeRows →
    (w &&& r.mask = r.pattern ↔ ∃ i, decode w = .ok i ∧ i.mnemonic = r.mnemonic)) ∧
  (∀ (w : Word) (r r' : OpcodeRow), r ∈ opcodeRows → r' ∈ opcodeRows →
    w &&& r.mask = r.pattern → w &&& r'.mask = r'.pattern → r = r') ∧
  (∀ (w : Word) (i : Instr), decode w = .ok i →
    let addr7 := w.extractLsb' 16 7
    let reg := w.extractLsb' 8 8
    let data := w.extractLsb' 0 8
    i = match w.extractLsb' 24 8 with
      | 0x01#8 => .setBitrate (w.extractLsb' 0 16)
      | 0x02#8 => .init
      | 0x10#8 => .sendStart
      | 0x11#8 => .sendRepeatedStart
      | 0x12#8 => .sendStop
      | 0x13#8 => .sendByte data
      | 0x14#8 => .sendWriteAddress addr7
      | 0x15#8 => .sendReadAddress addr7
      | 0x16#8 => .sendData data
      | 0x17#8 => .receiveByte w[0]
      | 0x18#8 => .getReceivedByte
      | 0x19#8 => .getStatus
      | 0x20#8 => .readRegister addr7 reg
      | 0x21#8 => .readRegisters addr7 reg data
      | 0x22#8 => .writeRegister addr7 reg data
      | _ => .writeRegisters addr7 reg data)

/-- Words written out bit by bit from the formats of R66 decode to the commands they stand for, and the illegal words of V0
(95_test_vectors.md) to none. -/
def Obligations.SpecWordsDecodeAsWritten : Prop :=
  decode 0b00000001000000000000000001100100#32 = .ok (.setBitrate 100#16) ∧
  decode 0b00010001000000000000000000000000#32 = .ok .sendRepeatedStart ∧
  decode 0b00010101000111010000000000000000#32 = .ok (.sendReadAddress 0x1D#7) ∧
  decode 0b00010111000000000000000000000001#32 = .ok (.receiveByte true) ∧
  decode 0b00100000000111010010110100000000#32 = .ok (.readRegister 0x1D#7 0x2D#8) ∧
  decode 0b00100011010100000001000000000011#32 = .ok (.writeRegisters 0x50#7 0x10#8 3#8) ∧
  decode 0x00000000#32 = .error .unassignedOpcode ∧
  decode 0x14800000#32 = .error .reservedBitSet

/-! ## Steps, submission and the host window -/

/-- A step whose input is the host's write of a command word to CMD, with no command running, is exec of the decoded command, after the
word is latched (R53; the input list is log 2). -/
def Obligations.StepSubmitsTheDecodedCommand : Prop :=
  ∀ (s : State) (w : Word) (rest : List Move) (i : Instr),
    Params.wf s.cfg = true → s.busy = false → decode w = .ok i →
    s.inputs = .host (.write s.cfg.hostBase 4 w) :: rest →
    step s = exec i { s with inputs := rest, cmd := w, latch := w }

/-- A step while a command runs is exec of the command CUR decodes to: at a sequencer input with that input consumed; with no input
listed at the state itself, or, where the bus agent may move, either at the state with one draw taken or the bus agent's
move with free values (R38, R42; logs 1 and 2). -/
def Obligations.StepRunsTheCurrentCommand : Prop :=
  ∀ (s : State) (q : Seq) (i : Instr),
    Params.wf s.cfg = true → s.seq = some q → decode q.cur = .ok i →
    (∀ rest, s.inputs = .sequencer :: rest → step s = exec i { s with inputs := rest }) ∧
    (s.inputs = [] → s.busEnabled = false → step s = exec i s) ∧
    (s.inputs = [] → s.busEnabled = true →
      step s = (if Config.busMoves s.tick then
          .next (busStep (Config.busCode s.tick) (Config.busByte s.tick) { s with tick := s.tick + 1 })
        else exec i { s with tick := s.tick + 1 }))

/-- A run of the machine over sequencer and bus inputs is the run of the current command along them: what the per-command statements
say of `execMoves` holds of `step` (R59; log 2). -/
def Obligations.MachineRunIsTheCommandsRun : Prop :=
  ∀ (i : Instr) (ms rest : List Move) (s : State) (q : Seq),
    Params.wf s.cfg = true → s.seq = some q → decode q.cur = .ok i → (∀ m ∈ ms, m.internal = true) →
    Host.Core.run Sys2Proof.core ms.length ({ s with inputs := ms ++ rest } : State) =
      execMoves i ms { s with inputs := rest }

/-- R69 and R116: a word submitted while BUSY = 0 is rejected as illegal, or as a bad argument, or accepted; a rejection changes RESULT
and CMD only; an acceptance clears ACC and begins the word's rule at its first step. A word submitted while BUSY = 1 is
dropped: no acceptance, no rejection (R54 says the rest). That the byte latch holds the word afterwards is the model's
choice (log 6). -/
def Obligations.SubmittedWordIsRejectedOrAccepted : Prop :=
  ∀ (s : State) (w : Word) (rest : List Move),
    Params.wf s.cfg = true → s.inputs = .host (.write s.cfg.hostBase 4 w) :: rest →
    (∀ e, s.busy = false → decode w = .error e →
      step s = .next { s with inputs := rest, cmd := w, latch := w, result := 0x00005400#32 }) ∧
    (s.busy = false → decode w = .ok (.setBitrate 0#16) →
      step s = .next { s with inputs := rest, cmd := w, latch := w, result := 0x00006400#32 }) ∧
    (∀ i, s.busy = false → decode w = .ok i → i ≠ .setBitrate 0#16 →
      step s = .next { s with
        inputs := rest
        cmd := w
        latch := w
        acc := ⟨0#8, false, false, false, false, .none, .none, 0#8⟩
        seq := some { cur := w, pos := firstPos i, held := 0#8 } }) ∧
    (s.busy = true → ∃ t, step s = .next t ∧ t.seq = s.seq ∧ t.acc = s.acc ∧ t.result = s.result)

/-- Every accepted command: exec answers the accepted state (R69), for every command but SET_BITRATE 0, which exec rejects with
BAD_ARGUMENT (R79). -/
def Obligations.ExecAcceptsEveryCommand : Prop :=
  ∀ (i : Instr) (s : State), s.busy = false →
    exec i s = .next (if i = .setBitrate 0#16 then { s with result := 0x00006400#32 }
      else { s with acc := Acc.zero, seq := some { cur := encode i, pos := firstPos i, held := 0#8 } })

/-- R53: four 8-bit writes of a word's bytes to CMD offsets 0 to 3 do exactly what one 32-bit write does, and each of the first three
only latches its byte. -/
def Obligations.ByteWritesSubmitLikeOneWordWrite : Prop :=
  ∀ (s : State) (w d0 d1 d2 d3 : Word) (rest : List Move),
    Params.wf s.cfg = true →
    d0.extractLsb' 0 8 = w.extractLsb' 0 8 → d1.extractLsb' 0 8 = w.extractLsb' 8 8 →
    d2.extractLsb' 0 8 = w.extractLsb' 16 8 → d3.extractLsb' 0 8 = w.extractLsb' 24 8 →
    let base := s.cfg.hostBase
    let first3 : List Move :=
      [.host (.write base 1 d0), .host (.write (base + 1) 1 d1), .host (.write (base + 2) 1 d2)]
    (∃ l, Host.Core.run Sys2Proof.core 3 ({ s with inputs := first3 ++ rest } : State) = .next { s with inputs := rest, latch := l }) ∧
    Host.Core.run Sys2Proof.core 4 ({ s with inputs := first3 ++ (.host (.write (base + 3) 1 d3) :: rest) } : State) =
      step { s with inputs := .host (.write base 4 w) :: rest }

/-- R54: a command word submitted while HSTAT.BUSY = 1 is dropped; the running command continues unaffected, CMD keeps the dropped
word, OVERRUN is set; R118: the model records a host fault. That the byte latch holds the word afterwards is the model's choice
(log 6). -/
def Obligations.WordSubmittedWhileBusyIsDropped : Prop :=
  ∀ (s : State) (w : Word) (rest : List Move),
    Params.wf s.cfg = true → s.busy = true → s.inputs = .host (.write s.cfg.hostBase 4 w) :: rest →
    step s = .next { s with
      inputs := rest
      cmd := w
      latch := w
      overrun := true
      hostFaults := s.hostFaults ++ [.submitWhileBusy] }

/-- R118: each of the three breaches of the host's duties is recorded as a host fault, the record is never cleared, and no state is
made final by it. That an access of a width not admitted is recorded as that one breach, also where it touches BUF while BUSY = 1, is
the model's choice (log 8); that a read so recorded does not stop at a BUF byte nothing has written is log 9. -/
def Obligations.HostBreachesAreRecordedForEver : Prop :=
  (∀ (s : State) (a : HostAccess) (off : Nat) (rest : List Move),
    Params.wf s.cfg = true → s.inputs = .host a :: rest → off < 512 →
    (∀ w : Word, a = .write s.cfg.hostBase 4 w → s.busy = true →
      ∃ t, step s = .next t ∧ t.hostFaults = s.hostFaults ++ [.submitWhileBusy]) ∧
    (∀ d : Word, a = .write (s.cfg.hostBase + 3) 1 d → s.busy = true →
      ∃ t, step s = .next t ∧ t.hostFaults = s.hostFaults ++ [.submitWhileBusy]) ∧
    (256 ≤ off → s.busy = true →
      (a = .read (s.cfg.hostBase + off) 1 ∨ ∃ d, a = .write (s.cfg.hostBase + off) 1 d) →
      ∃ t, step s = .next t ∧ t.hostFaults = s.hostFaults ++ [.bufWhileBusy]) ∧
    (∀ size, size ≠ 1 → (size = 4 → off ≠ 0 ∧ off ≠ 4) →
      (a = .read (s.cfg.hostBase + off) size ∨ ∃ d, a = .write (s.cfg.hostBase + off) size d) →
      ∃ t, step s = .next t ∧ t.hostFaults = s.hostFaults ++ [.accessNotAdmitted])) ∧
  (∀ s t : State, step s = .next t → s.hostFaults <+: t.hostFaults)

/-- Host reads (R35, R46, R47, R49, R51, R57): what each offset returns; nothing but the returned value changes. BUF is read while
BUSY = 0: a byte that has been written is returned, one that nothing has written since reset faults (R44, U6; log 9). While
BUSY = 1 a read of BUF returns some byte, is recorded as a host fault and changes no state of the block (R55; log 8; the
draw counter is log 2); that this holds of a byte nothing has written too, where R44 and U6 ask for a fault, is the model's choice
(log 9). `hostData` is the model's record of the returned value (log 7). -/
def Obligations.HostReadReturnsTheWindow : Prop :=
  ∀ (s : State) (rest : List Move) (off : Nat), Params.wf s.cfg = true →
    let s' : State := { s with inputs := rest }
    let rd (size : Nat) := step { s with inputs := .host (.read (s.cfg.hostBase + off) size) :: rest }
    (off < 4 → rd 1 = .next { s' with hostData := (s.cmd.extractLsb' (8 * off) 8).setWidth 32 }) ∧
    (4 ≤ off → off < 8 → rd 1 = .next { s' with hostData := (s.result.extractLsb' (8 * (off - 4)) 8).setWidth 32 }) ∧
    (off = 8 → rd 1 = .next { s' with hostData := s.hstat.setWidth 32 }) ∧
    (9 ≤ off → off < 256 → rd 1 = .next { s' with hostData := 0#32 }) ∧
    (∀ b, 256 ≤ off → off < 512 → s.busy = false → s.buf.read (off - 256) = some b →
      rd 1 = .next { s' with hostData := b.setWidth 32 }) ∧
    (256 ≤ off → off < 512 → s.busy = false → s.buf.read (off - 256) = none → rd 1 = .fault (.bufUnwritten (off - 256))) ∧
    (256 ≤ off → off < 512 → s.busy = true → ∃ (b : Byte) (k : Nat), rd 1 = .next { s' with
      hostData := b.setWidth 32
      hostFaults := s.hostFaults ++ [.bufWhileBusy]
      tick := k }) ∧
    (off = 0 → rd 4 = .next { s' with hostData := s.cmd }) ∧
    (off = 4 → rd 4 = .next { s' with hostData := s.result })

/-- Host writes that submit nothing (R34, R35, R47, R53, R57): offsets 0 to 2 latch; RESULT, the reserved offsets and a 32-bit write of
RESULT do nothing; HSTAT clears OVERRUN where bit 1 is written 1; BUF takes the byte while BUSY = 0. -/
def Obligations.HostWriteChangesOnlyItsTarget : Prop :=
  ∀ (s : State) (rest : List Move) (off : Nat) (d : Word), Params.wf s.cfg = true →
    let s' : State := { s with inputs := rest }
    let wr (size : Nat) := step { s with inputs := .host (.write (s.cfg.hostBase + off) size d) :: rest }
    (off < 3 → ∃ l, wr 1 = .next { s' with latch := l } ∧ l.extractLsb' (8 * off) 8 = d.extractLsb' 0 8 ∧
      ∀ j, j < 4 → j ≠ off → l.extractLsb' (8 * j) 8 = s.latch.extractLsb' (8 * j) 8) ∧
    (4 ≤ off → off < 8 → wr 1 = .next s') ∧
    (off = 8 → wr 1 = .next { s' with overrun := s.overrun && !d[1] }) ∧
    (9 ≤ off → off < 256 → wr 1 = .next s') ∧
    (256 ≤ off → off < 512 → s.busy = false →
      ∃ m, wr 1 = .next { s' with buf := m } ∧ m.read (off - 256) = some (d.extractLsb' 0 8) ∧
        ∀ a, a ≠ off - 256 → m.read a = s.buf.read a) ∧
    (off = 4 → wr 4 = .next s')

/-- HSTAT.OVERRUN is sticky (R35): it goes from 1 to 0 only by a host write of HSTAT with bit 1 set, or by reset. That a host write
which is not admitted leaves OVERRUN, also one of another width at HSTAT with bit 1 set, is the model's choice (log 8). -/
def Obligations.OverrunIsClearedOnlyByTheHostOrReset : Prop :=
  ∀ (s t : State), step s = .next t → s.overrun = true → t.overrun = false →
    (∃ rest, s.inputs = .reset :: rest) ∨
    (∃ (d : Word) (rest : List Move), s.inputs = .host (.write (s.cfg.hostBase + 8) 1 d) :: rest ∧ d[1] = true)

/-! ## Reset -/

/-- R44 and R129: in one step reset sets every piece of state to its reset value; a running command is discarded without a finish, a
pending action is dropped without an event, LOG and BUSEV start empty. -/
def Obligations.ResetSetsEveryPieceOfState : Prop :=
  (∀ (s : State) (rest : List Move), Params.wf s.cfg = true → s.inputs = .reset :: rest →
    ∃ t, step s = .next t ∧ t.cfg = s.cfg ∧ t.cr.toByte = 0x00#8 ∧ t.sr.toByte = 0xF8#8 ∧ t.dr = 0xFF#8 ∧ t.br = 0x00#8 ∧
      t.cmd = 0#32 ∧ t.result = 0#32 ∧ t.busy = false ∧ t.overrun = false ∧ t.phase = .idle ∧ t.pend = none ∧
      t.seq = none ∧ t.acc = Acc.zero ∧ t.log = [] ∧ t.busev = [] ∧ (∀ a, t.buf.read a = none) ∧
      t.hstat = (match s.cfg.mode with | .faithful => 0x00#8 | .hardened => 0x04#8)) ∧
  (State.reset.cr.toByte = 0x00#8 ∧ State.reset.sr.toByte = 0xF8#8 ∧ State.reset.dr = 0xFF#8 ∧ State.reset.br = 0x00#8 ∧
    State.reset.cmd = 0#32 ∧ State.reset.result = 0#32 ∧ State.reset.hstat = 0x00#8 ∧ State.reset.pend = none ∧
    State.reset.seq = none ∧ State.reset.acc = Acc.zero ∧ State.reset.log = [] ∧ State.reset.busev = [] ∧
    ∀ a, State.reset.buf.read a = none)

/-- R130: after reset the block waits for a submission and runs nothing on its own: without inputs it stays in the reset state, with
EN = 0 so that no bus action can start, for ever. The mode (like every parameter, R17) cannot change: no step changes `cfg`. -/
def Obligations.ResetBlockWaitsForASubmission : Prop :=
  ∀ (p : Params) (n : Nat), Params.wf p = true →
    Host.Core.run Sys2Proof.core n (State.resetWith p) = .next (State.resetWith p) ∧
    (State.resetWith p).busy = false ∧ (State.resetWith p).cr.en = false ∧ (State.resetWith p).busEnabled = false ∧
    ∀ s t : State, step s = .next t → t.cfg = s.cfg

/-- R9: a parameter set that breaks any of its five conditions is refused, and none but an ill-formed set is. -/
def Obligations.BadParameterSetIsRefused : Prop :=
  ∀ s : State,
    let p := s.cfg
    let constants : List Byte := [p.startOk, p.repeatedStartOk, p.writeAddressOk, p.writeAddressNack, p.writeDataOk, p.writeDataNack,
      p.readAddressOk, p.readAddressNack, p.readDataOk, p.noInfo]
    ((p.fClk < 1 ∨ p.pollBudget < 1 ∨ p.stopBudget < 1 ∨ (∃ v ∈ constants, v.extractLsb' 0 3 ≠ 0#3) ∨
        p.readDataOk.extractLsb' 0 4 ≠ 0#4 ∨
        ¬ [p.startOk, p.repeatedStartOk, p.writeAddressOk, p.readAddressOk, p.writeDataOk, p.readDataOk].Nodup ∨
        p.writeAddressNack = p.writeAddressOk ∨ p.readAddressNack = p.readAddressOk ∨ p.writeDataNack = p.writeDataOk) →
      step s = .refused .badParameters) ∧
    (step s = .refused .badParameters → Params.wf p = false)

/-! ## Registers and the bus agent -/

/-- R25 and R26: the whole-register write of CR, in one step: EA, STA, STO and EN take the written bits, bit 7 clears INT where it is 1;
where EN goes from 1 to 0 the pending action is dropped, INT, STA, STO and EA are cleared, SR.CODE is NO_INFO[7:3],
`Disabled` is appended, and PS, BR, DR are unchanged. -/
def Obligations.CrWriteSetsFieldsAndDisables : Prop :=
  ∀ (v : Byte) (s : State),
    ((s.cr.en = true ∧ v[2] = false) →
      writeCr v s = { s with
        pend := none
        cr := { int := false, ea := false, sta := false, sto := false, en := false }
        sr := { code := s.cfg.noInfo.extractLsb' 3 5, ps := s.sr.ps }
        busev := s.busev ++ [.disabled] }) ∧
    (¬(s.cr.en = true ∧ v[2] = false) →
      writeCr v s = { s with cr := {
        int := s.cr.int && !v[7], ea := v[6], sta := v[5], sto := v[4], en := v[2] } })

/-- R83 and R84: Issue(a) records an abandoned action, writes the CR pattern of the table, which leaves the CR of its second column just
after the write and, when the bus agent completes the action, that of its third; it makes `a` pending with DR as the byte
of a SEND, and appends Issued; SR, DR, BR and everything else stay. -/
def Obligations.IssueWritesCrAndMakesTheActionPending : Prop :=
  ∀ (a : Action) (s : State) (c : Code) (r : Byte),
    let b : Byte := if a = .send then s.dr else 0#8
    (issue a s).cr = (writeCr (match a with
      | .start => 0xA4#8 | .stop => 0x94#8 | .send => 0x84#8 | .recvAck => 0xC4#8 | .recvNack => 0x84#8) s).cr ∧
    (busStep c r (issue a s)).cr.toByte = (match a with
      | .start => 0xA4#8 | .stop => 0x04#8 | .send => 0x84#8 | .recvAck => 0xC4#8 | .recvNack => 0x84#8) ∧
    (issue a s).cr.toByte =
      (match a with | .start => 0x24#8 | .stop => 0x14#8 | .send => 0x04#8 | .recvAck => 0x44#8 | .recvNack => 0x04#8) ∧
    issue a s = { s with
      cr := (issue a s).cr
      pend := some { act := a, byte := b }
      busev := s.busev ++ (match s.pend with | none => [] | some p => [.abandoned p.act]) ++ [.issued a b] }

/-- R42: the bus agent's step in one transition, for a STOP and for every other action with any draw; it has a step only while PEND is
not NONE and EN = 1, and it may take it between any two steps or never: a bus input makes that move, and a step with a
sequencer input completes nothing, whatever is pending. That a move of the bus agent is an input, and that one listed where
the agent has no step changes nothing, is the model's choice (log 2). -/
def Obligations.BusAgentCompletesThePendingAction : Prop :=
  (∀ (s : State) (c : Code) (b : Byte) (rest : List Move), Params.wf s.cfg = true → s.inputs = .bus c b :: rest →
    (∀ p, s.pend = some p → s.cr.en = true → p.act = .stop →
      step s = .next { s with
        inputs := rest
        cr := { s.cr with sto := false }
        sr := { s.sr with code := s.cfg.noInfo.extractLsb' 3 5 }
        busev := s.busev ++ [.completed .stop s.cfg.noInfo 0#8]
        pend := none }) ∧
    (∀ p, s.pend = some p → s.cr.en = true → p.act ≠ .stop →
      step s = .next { s with
        inputs := rest
        cr := { s.cr with int := true }
        sr := { s.sr with code := c }
        dr := if p.act = .recvAck ∨ p.act = .recvNack then b else s.dr
        busev := s.busev ++ [.completed p.act (c ++ 0#3) (if p.act = .recvAck ∨ p.act = .recvNack then b else 0#8)]
        pend := none }) ∧
    ((s.pend = none ∨ s.cr.en = false) → step s = .next { s with inputs := rest })) ∧
  (∀ (s t : State) (rest : List Move), s.inputs = .sequencer :: rest → step s = .next t →
    ∃ ev, t.busev = s.busev ++ ev ∧ ∀ e ∈ ev, ∀ a st r, e ≠ .completed a st r)

/-- R28: the status value is the code field in place; the prescaler bits and the reserved bit are masked off. -/
def Obligations.StatusValueMasksPrescaler : Prop :=
  ∀ r : Sr, r.status = r.toByte &&& 0xF8#8 ∧ r.status = r.code ++ 0#3 ∧
    ∀ r' : Sr, r.code = r'.code → r.status = r'.status

/-- R71 to R73: every field of the result word stands at its bits, with the codes of the tables, and bits 31:28 are 0. -/
def Obligations.ResultWordHoldsItsFields : Prop :=
  ∀ a : Acc,
    (pack a).extractLsb' 0 8 = a.value ∧ (pack a)[8] = a.timeout ∧ (pack a)[9] = a.mismatch ∧
    (pack a)[10] = a.illegal ∧ (pack a)[11] = a.aborted ∧
    (pack a).extractLsb' 12 4 = (match a.errKind with
      | .none => 0#4 | .timeout => 1#4 | .nack => 2#4 | .busError => 3#4 | .stopTimeout => 4#4
      | .illegalEncoding => 5#4 | .badArgument => 6#4) ∧
    (pack a).extractLsb' 16 4 = (match a.errPhase with
      | .none => 0#4 | .start => 1#4 | .repeatedStart => 2#4 | .address => 3#4 | .data => 4#4 | .receive => 5#4
      | .stop => 6#4 | .byte => 7#4) ∧
    (pack a).extractLsb' 20 8 = a.errStatus ∧ (pack a).extractLsb' 28 4 = 0#4

/-- HSTAT (R35, R36): BUSY, OVERRUN, MODE and PHASE at their bits, bits 7:6 read 0. -/
def Obligations.HstatHoldsItsFields : Prop :=
  ∀ s : State,
    s.hstat[0] = s.busy ∧ s.hstat[1] = s.overrun ∧
    s.hstat[2] = decide (s.cfg.mode = .hardened) ∧
    s.hstat.extractLsb' 3 3 = (match s.phase with
      | .idle => 0#3 | .started => 1#3 | .addressed => 2#3 | .data => 3#3 | .stopped => 4#3) ∧
    s.hstat.extractLsb' 6 2 = 0#2

/-! ## Commands: what each does from acceptance to finish

In every statement exec first answers the accepted state; then the run of the command along a list of moves, each
sequencer move one exec, ends in the state the rule gives. `c` and `b` are the bus agent's draw; `j` is how many poll
reads fail before the bus agent completes. -/

/-- R79 with R76 and R77: SET_BITRATE khz for khz ≥ 1 writes SR.PS and BR and returns BR; khz = 0 is rejected and changes neither. -/
def Obligations.SetBitrateWritesPrescalerAndDivider : Prop :=
  ∀ (khz : BitVec 16) (s : State), s.busy = false →
    (khz = 0#16 → exec (.setBitrate khz) s = .next { s with result := 0x00006400#32 }) ∧
    (khz ≠ 0#16 →
      let k := khz.toNat
      let p := if k < 8 then 16 else if k < 31 then 4 else 1
      let q := s.cfg.fClk / (2000 * p * k)
      let d : Byte := BitVec.ofNat 8 (if 8 ≤ q then q - 8 else q)
      let s1 : State := accept (.setBitrate khz) .setPs s
      exec (.setBitrate khz) s = .next s1 ∧
      execMoves (.setBitrate khz) (sequencerMoves 3) s1 = .next { s with
        sr := { code := s.sr.code, ps := if k < 8 then 2#2 else if k < 31 then 1#2 else 0#2 }
        br := d
        acc := { Acc.zero with value := d }
        result := d.setWidth 32 })

/-- R80: INIT does SET_BITRATE 100 and sets EN, leaving INT, EA, STA and STO; RESULT = 0; no bus activity; a second INIT changes
nothing more. -/
def Obligations.InitSelects100kHzAndEnables : Prop :=
  ∀ s : State, s.busy = false →
    let q := s.cfg.fClk / 200000
    let t : State := { s with
      sr := { code := s.sr.code, ps := 0#2 }
      br := BitVec.ofNat 8 (if 8 ≤ q then q - 8 else q)
      cr := { s.cr with en := true }
      acc := Acc.zero
      result := 0#32 }
    exec .init s = .next (accept .init .setPs s) ∧
    execMoves .init (sequencerMoves 4) (accept .init .setPs s) = .next t ∧
    exec .init t = .next (accept .init .setPs t) ∧
    execMoves .init (sequencerMoves 4) (accept .init .setPs t) = .next t

/-- SEND_START and SEND_REPEATED_START (R92, R93): PHASE STARTED, Issue(START), the setup wait, the poll and the post-check. The bus
completes with any code after `j` failed reads, or never; in both cases the post-check is made and the command finishes.
The mismatch kind is BUS_ERROR. -/
def Obligations.StartCommandsIssueStartAndCheck : Prop :=
  ∀ (s : State) (c : Code) (b : Byte) (j : Nat) (i : Instr) (phase : ErrPhase) (expected : Byte) (first : Pos),
    Params.wf s.cfg = true → s.busy = false →
    ((i = .sendStart ∧ phase = .start ∧ expected = s.cfg.startOk ∧ first = .start .issue) ∨
      (i = .sendRepeatedStart ∧ phase = .repeatedStart ∧ expected = s.cfg.repeatedStartOk ∧
        first = .repeatedStart .issue)) →
    exec i s = .next (accept i first s) ∧
    (j < s.cfg.pollBudget →
      let st := statusOfCode c
      let acc := checkedAcc .busError phase st (st = expected)
      execMoves i (sequencerMoves (2 + j) ++ (.bus c b :: sequencerMoves 3)) (accept i first s) = .next { s with
        phase := .started
        cr := { int := true, ea := false, sta := true, sto := false, en := true }
        sr := { code := c, ps := s.sr.ps }
        pend := none
        busev := s.busev ++ (abandonEvents s.pend ++ actionEvents .start 0#8 c 0#8)
        log := s.log ++ mismatchLog phase expected st (st = expected)
        acc := acc
        result := pack acc }) ∧
    (
      let st := s.sr.status
      let acc := timeoutAcc phase st (st = expected)
      execMoves i (sequencerMoves (2 + s.cfg.pollBudget + 3)) (accept i first s) = .next { s with
        phase := .started
        cr := { int := false, ea := false, sta := true, sto := false, en := true }
        pend := some { act := .start, byte := 0#8 }
        busev := s.busev ++ (abandonEvents s.pend ++ [.issued .start 0#8])
        log := s.log ++ mismatchLog phase expected st (st = expected)
        acc := acc
        result := pack acc })

/-- R94: SEND_STOP. The bus completes the stop after `j` failed reads (in HARDENED mode fewer than STOP_BUDGET): INT cleared, STO 0,
status NO_INFO, PHASE IDLE, RESULT 0. If it never does, HARDENED makes STOP_BUDGET reads and records STOP_TIMEOUT in
phase STOP, with the action still pending. (That FAITHFUL then spins for ever is StopSpinIsUnboundedOnlyInFaithfulMode.) -/
def Obligations.SendStopIssuesStopAndWaits : Prop :=
  ∀ (s : State) (c : Code) (b : Byte) (j : Nat), Params.wf s.cfg = true → s.busy = false →
    exec .sendStop s = .next (accept .sendStop (.stop .issue) s) ∧
    ((s.cfg.mode = .faithful ∨ j < s.cfg.stopBudget) →
      execMoves .sendStop (sequencerMoves (1 + j) ++ (.bus c b :: sequencerMoves 2)) (accept .sendStop (.stop .issue) s) =
        .next { s with
          phase := .idle
          cr := { int := false, ea := false, sta := false, sto := false, en := true }
          sr := { code := s.cfg.noInfo.extractLsb' 3 5, ps := s.sr.ps }
          pend := none
          busev := s.busev ++ (abandonEvents s.pend ++ stopEvents s.cfg)
          acc := Acc.zero
          result := 0#32 }) ∧
    (s.cfg.mode = .hardened →
      let acc : Acc := { Acc.zero with
        timeout := true, errKind := .stopTimeout, errPhase := .stop, errStatus := s.sr.status }
      execMoves .sendStop (sequencerMoves (1 + s.cfg.stopBudget + 2)) (accept .sendStop (.stop .issue) s) =
        .next { s with
          phase := .idle
          cr := { int := false, ea := false, sta := false, sto := true, en := true }
          pend := some { act := .stop, byte := 0#8 }
          busev := s.busev ++ (abandonEvents s.pend ++ [.issued .stop 0#8])
          acc := acc
          result := pack acc })

/-- SEND_BYTE (R95 with R90): with INT = 1 the byte goes to DR, is issued as SEND in PHASE DATA and polled; no post-check, so never a
mismatch or a log record. A bus that never completes gives TIMEOUT in phase BYTE. -/
def Obligations.SendByteSendsWithoutPostCheck : Prop :=
  ∀ (s : State) (x : Byte) (c : Code) (b : Byte) (j : Nat),
    Params.wf s.cfg = true → s.busy = false → s.cr.int = true →
    exec (.sendByte x) s = .next (accept (.sendByte x) (.byte .ready) s) ∧
    (j < s.cfg.pollBudget →
      execMoves (.sendByte x) (sequencerMoves (3 + j) ++ (.bus c b :: sequencerMoves 2))
          (accept (.sendByte x) (.byte .ready) s) = .next { s with
        phase := .data
        dr := x
        cr := { int := true, ea := false, sta := false, sto := false, en := true }
        sr := { code := c, ps := s.sr.ps }
        pend := none
        busev := s.busev ++ (abandonEvents s.pend ++ actionEvents .send x c 0#8)
        acc := Acc.zero
        result := 0#32 }) ∧
    (
      let acc : Acc := { Acc.zero with timeout := true, errKind := .timeout, errPhase := .byte, errStatus := s.sr.status }
      execMoves (.sendByte x) (sequencerMoves (3 + s.cfg.pollBudget + 2)) (accept (.sendByte x) (.byte .ready) s) =
        .next { s with
          phase := .data
          dr := x
          cr := { int := false, ea := false, sta := false, sto := false, en := true }
          pend := some { act := .send, byte := x }
          busev := s.busev ++ (abandonEvents s.pend ++ [.issued .send x])
          acc := acc
          result := pack acc })

/-- SEND_WRITE_ADDRESS, SEND_READ_ADDRESS and SEND_DATA (R96, R97, R98 with R90): with INT = 1 the byte is sent and the status checked,
whether or not the poll completed; the kind of a mismatch is NACK for the paired NACK status, else BUS_ERROR. -/
def Obligations.AddressAndDataCommandsSendAndCheck : Prop :=
  ∀ (s : State) (a : Addr7) (d : Byte) (c : Code) (b : Byte) (j : Nat)
    (i : Instr) (x : Byte) (phase : ErrPhase) (ph : Phase) (expected nack : Byte) (first : Pos),
    Params.wf s.cfg = true → s.busy = false → s.cr.int = true →
    ((i = .sendWriteAddress a ∧ x.toNat = 2 * a.toNat ∧ phase = .address ∧ ph = .addressed ∧
        expected = s.cfg.writeAddressOk ∧ nack = s.cfg.writeAddressNack ∧ first = .writeAddress .ready) ∨
      (i = .sendReadAddress a ∧ x.toNat = 2 * a.toNat + 1 ∧ phase = .address ∧ ph = .addressed ∧
        expected = s.cfg.readAddressOk ∧ nack = s.cfg.readAddressNack ∧ first = .readAddress .ready) ∨
      (i = .sendData d ∧ x = d ∧ phase = .data ∧ ph = .data ∧
        expected = s.cfg.writeDataOk ∧ nack = s.cfg.writeDataNack ∧ first = .data 0 .ready)) →
    exec i s = .next (accept i first s) ∧
    (j < s.cfg.pollBudget →
      let st := statusOfCode c
      let acc := checkedAcc (if st = nack then .nack else .busError) phase st (st = expected)
      execMoves i (sequencerMoves (3 + j) ++ (.bus c b :: sequencerMoves 3)) (accept i first s) = .next { s with
        phase := ph
        dr := x
        cr := { int := true, ea := false, sta := false, sto := false, en := true }
        sr := { code := c, ps := s.sr.ps }
        pend := none
        busev := s.busev ++ (abandonEvents s.pend ++ actionEvents .send x c 0#8)
        log := s.log ++ mismatchLog phase expected st (st = expected)
        acc := acc
        result := pack acc }) ∧
    (
      let st := s.sr.status
      let acc := timeoutAcc phase st (st = expected)
      execMoves i (sequencerMoves (3 + s.cfg.pollBudget + 3)) (accept i first s) = .next { s with
        phase := ph
        dr := x
        cr := { int := false, ea := false, sta := false, sto := false, en := true }
        pend := some { act := .send, byte := x }
        busev := s.busev ++ (abandonEvents s.pend ++ [.issued .send x])
        log := s.log ++ mismatchLog phase expected st (st = expected)
        acc := acc
        result := pack acc })

/-- The pre-check of SendByte (R90) with INT = 0, in the four commands that begin with it: if the pending action completes after `j`
failed reads of the wait (in HARDENED mode fewer than the budget), the byte is loaded; in HARDENED mode a wait without
completion records TIMEOUT, sends nothing and finishes: DR, CR and BUSEV are unchanged; in FAITHFUL mode, in every command
and composite, it never ends without a completion and changes nothing but its counter, BUSY stays 1 (R136). -/
def Obligations.SendPreCheckWaitsForTheCompletionFlag : Prop :=
  (∀ (s : State) (x : Byte) (a : Addr7) (c : Code) (b : Byte) (j : Nat) (i : Instr) (phase : ErrPhase) (wrap : SendPt → Pos),
    Params.wf s.cfg = true → s.busy = false → s.cr.int = false →
    ((i = .sendByte x ∧ phase = .byte ∧ wrap = .byte) ∨ (i = .sendWriteAddress a ∧ phase = .address ∧ wrap = .writeAddress) ∨
      (i = .sendReadAddress a ∧ phase = .address ∧ wrap = .readAddress) ∨ (i = .sendData x ∧ phase = .data ∧ wrap = .data 0)) →
    ((∃ p, s.pend = some p ∧ p.act ≠ .stop ∧ s.cr.en = true) → (s.cfg.mode = .faithful ∨ j < s.cfg.pollBudget) →
      ∃ t, execMoves i (sequencerMoves (1 + j) ++ [.bus c b, .sequencer]) (accept i (wrap .ready) s) = .next t ∧
        t.seq = some { cur := encode i, pos := wrap .load, held := 0#8 } ∧ t.acc = Acc.zero ∧ t.cr.int = true) ∧
    (s.cfg.mode = .hardened →
      let acc : Acc := { Acc.zero with timeout := true, errKind := .timeout, errPhase := phase, errStatus := s.sr.status }
      execMoves i (sequencerMoves (1 + s.cfg.pollBudget + 2)) (accept i (wrap .ready) s) =
        .next { s with acc := acc, result := pack acc })) ∧
  (∀ (i : Instr) (s : State) (q : Seq) (p0 : Pos) (n : Nat),
    s.cfg.mode = .faithful → s.seq = some q → posFits i q.pos = true → waitWith q.pos 0 = some p0 → s.cr.int = false →
    ∃ k pk, waitWith q.pos k = some pk ∧ execMoves i (sequencerMoves n) s = .next { s with seq := some { q with pos := pk } })

/-- RECEIVE_BYTE (R99 with R100): EA is the acknowledge choice, DR takes the byte when the bus completes, the post-check compares the
status under 0xF0; a bus that never completes leaves DR and gives TIMEOUT in phase RECEIVE. -/
def Obligations.ReceiveByteTakesTheByteAndChecks : Prop :=
  ∀ (s : State) (ack : Bool) (c : Code) (b : Byte) (j : Nat), Params.wf s.cfg = true → s.busy = false →
    let act : Action := if ack then .recvAck else .recvNack
    let s1 := accept (.receiveByte ack) (.receive 0 .issue) s
    exec (.receiveByte ack) s = .next s1 ∧
    (j < s.cfg.pollBudget →
      let st := statusOfCode c
      let acc := checkedAcc .busError .receive st (st &&& 0xF0#8 = s.cfg.readDataOk)
      execMoves (.receiveByte ack) (sequencerMoves (1 + j) ++ (.bus c b :: sequencerMoves 3)) s1 = .next { s with
        phase := .data
        dr := b
        cr := { int := true, ea := ack, sta := false, sto := false, en := true }
        sr := { code := c, ps := s.sr.ps }
        pend := none
        busev := s.busev ++ (abandonEvents s.pend ++ actionEvents act 0#8 c b)
        log := s.log ++ mismatchLog .receive s.cfg.readDataOk st (st &&& 0xF0#8 = s.cfg.readDataOk)
        acc := acc
        result := pack acc }) ∧
    (
      let st := s.sr.status
      let acc := timeoutAcc .receive st (st &&& 0xF0#8 = s.cfg.readDataOk)
      execMoves (.receiveByte ack) (sequencerMoves (1 + s.cfg.pollBudget + 3)) s1 = .next { s with
        phase := .data
        cr := { int := false, ea := ack, sta := false, sto := false, en := true }
        pend := some { act := act, byte := 0#8 }
        busev := s.busev ++ (abandonEvents s.pend ++ [.issued act 0#8])
        log := s.log ++ mismatchLog .receive s.cfg.readDataOk st (st &&& 0xF0#8 = s.cfg.readDataOk)
        acc := acc
        result := pack acc })

/-- R101 and R102: GET_RECEIVED_BYTE returns DR, GET_STATUS returns the status value; nothing but ACC and RESULT changes. -/
def Obligations.GetCommandsReturnDrAndStatus : Prop :=
  ∀ s : State, s.busy = false →
    (exec .getReceivedByte s = .next (accept .getReceivedByte .readDr s) ∧
      execMoves .getReceivedByte (sequencerMoves 2) (accept .getReceivedByte .readDr s) =
        .next { s with acc := { Acc.zero with value := s.dr }, result := s.dr.setWidth 32 }) ∧
    (exec .getStatus s = .next (accept .getStatus .readSr s) ∧
      execMoves .getStatus (sequencerMoves 2) (accept .getStatus .readSr s) =
        .next { s with
          acc := { Acc.zero with value := s.sr.code ++ 0#3 }
          result := (s.sr.code ++ 0#3 : Byte).setWidth 32 })

/-- READ_REGISTER (R109, R103, R105, R108), on a bus that completes every action before the next step: in FAITHFUL mode whatever the
codes are, in HARDENED mode when every post-check passes, the bus sequence is START, SEND addr·2, SEND reg, START, SEND
addr·2+1, RECV_NACK, STOP, Disabled; VALUE is the byte received; the controller ends toggled (CR = 0x04, NO_INFO, IDLE);
BR, SR.PS and BUF are unchanged; when every check passes RESULT is the byte alone and nothing is logged. -/
def Obligations.ReadRegisterRunsItsSequence : Prop :=
  ∀ (s : State) (addr7 : Addr7) (aw ar : Byte) (reg : Byte) (a1 a2 a3 a4 a5 a6 : Answer) (c : Code) (b : Byte),
    Params.wf s.cfg = true → s.busy = false → aw.toNat = 2 * addr7.toNat → ar.toNat = 2 * addr7.toNat + 1 →
    let i : Instr := .readRegister addr7 reg
    let ok := readOpeningOk s.cfg a1 a2 a3 a4 a5 ∧ a6.isReceiveOk s.cfg
    (s.cfg.mode = .faithful ∨ ok) →
    exec i s = .next (accept i (.start .issue) s) ∧
    ∃ t, execMoves i (readOpeningMoves a1 a2 a3 a4 a5 ++ (receiveMoves a6.1 a6.2 ++ (.sequencer :: (stopMoves c b ++
        (toggleMoves ++ [.sequencer]))))) (accept i (.start .issue) s) = .next t ∧
      t.busy = false ∧ t.dr = a6.2 ∧ t.cr.toByte = 0x04#8 ∧ t.sr = { code := s.cfg.noInfo.extractLsb' 3 5, ps := s.sr.ps } ∧
      t.phase = .idle ∧ t.pend = none ∧ t.br = s.br ∧ t.buf = s.buf ∧ t.cmd = s.cmd ∧
      t.result.extractLsb' 0 8 = a6.2 ∧
      t.busev = s.busev ++ (abandonEvents s.pend ++ (readOpeningEvents aw reg ar
        a1 a2 a3 a4 a5 ++ (actionEvents .recvNack 0#8 a6.1 a6.2 ++ (stopEvents s.cfg ++ [.disabled])))) ∧
      (ok → t.result = a6.2.setWidth 32 ∧ t.log = s.log)

/-- READ_REGISTERS for n ≥ 1 (R110, R103, R105), on a bus that completes every action before the next step, with one answer for each
byte: exactly n receives, all but the last with ACK; BUF[0..n-1] holds the bytes received, every other byte of BUF reads as
before; VALUE = n; the controller ends toggled. In FAITHFUL mode whatever the codes are. -/
def Obligations.ReadRegistersFillsTheBuffer : Prop :=
  ∀ (s : State) (addr7 : Addr7) (aw ar : Byte) (reg n : Byte) (a1 a2 a3 a4 a5 : Answer) (as : List Answer) (c : Code) (b : Byte),
    Params.wf s.cfg = true → s.busy = false → aw.toNat = 2 * addr7.toNat → ar.toNat = 2 * addr7.toNat + 1 → as.length = n.toNat → n ≠ 0#8 →
    let i : Instr := .readRegisters addr7 reg n
    let ok := readOpeningOk s.cfg a1 a2 a3 a4 a5 ∧ ∀ a ∈ as, Answer.isReceiveOk a s.cfg
    (s.cfg.mode = .faithful ∨ ok) →
    exec i s = .next (accept i (.start .issue) s) ∧
    ∃ t, execMoves i (readOpeningMoves a1 a2 a3 a4 a5 ++ (burstReadMoves as ++ (stopMoves c b ++
        (toggleMoves ++ [.sequencer])))) (accept i (.start .issue) s) = .next t ∧
      t.busy = false ∧ t.cr.toByte = 0x04#8 ∧ t.sr = { code := s.cfg.noInfo.extractLsb' 3 5, ps := s.sr.ps } ∧
      t.phase = .idle ∧ t.pend = none ∧ t.br = s.br ∧ t.cmd = s.cmd ∧
      (∀ k, k < n.toNat → t.buf.read k = as[k]?.map (·.2)) ∧ (∀ k, n.toNat ≤ k → t.buf.read k = s.buf.read k) ∧
      t.result.extractLsb' 0 8 = n ∧
      t.busev = s.busev ++ (abandonEvents s.pend ++ (readOpeningEvents aw reg ar
        a1 a2 a3 a4 a5 ++ (burstReadEvents as ++ (stopEvents s.cfg ++ [.disabled])))) ∧
      (ok → t.result = n.setWidth 32 ∧ t.log = s.log)

/-- READ_REGISTERS with n = 0 finishes at once (R110): RESULT = 0, no bus activity, no CR write, BUF untouched; like every composite
that finishes it leaves PHASE IDLE (R107), and nothing else changes. That this happens in the finish step is log 20. -/
def Obligations.ReadRegistersOfZeroBytesDoesNothing : Prop :=
  ∀ (s : State) (addr7 : Addr7) (reg : Byte), s.busy = false →
    let i : Instr := .readRegisters addr7 reg 0#8
    exec i s = .next (accept i .finish s) ∧
    execMoves i (sequencerMoves 1) (accept i .finish s) = .next { s with acc := Acc.zero, result := 0#32, phase := .idle }

/-- WRITE_REGISTER (R111, R103, R105), on a bus that completes every action before the next step: START, SEND addr·2, SEND reg, SEND
byte, STOP, and no toggle; VALUE 0; CR = 0x04 with INT 0. In FAITHFUL mode whatever the codes are. -/
def Obligations.WriteRegisterRunsItsSequence : Prop :=
  ∀ (s : State) (addr7 : Addr7) (aw : Byte) (reg byte : Byte) (a1 a2 a3 a4 : Answer) (c : Code) (b : Byte),
    Params.wf s.cfg = true → s.busy = false → aw.toNat = 2 * addr7.toNat →
    let i : Instr := .writeRegister addr7 reg byte
    let ok := openingOk s.cfg a1 a2 a3 ∧ a4.isStatus s.cfg.writeDataOk
    (s.cfg.mode = .faithful ∨ ok) →
    exec i s = .next (accept i (.start .issue) s) ∧
    ∃ t, execMoves i (openingMoves a1 a2 a3 ++ (sendMoves a4.1 a4.2 ++ (stopMoves c b ++ [.sequencer])))
        (accept i (.start .issue) s) = .next t ∧
      t.busy = false ∧ t.dr = byte ∧ t.cr.toByte = 0x04#8 ∧ t.sr = { code := s.cfg.noInfo.extractLsb' 3 5, ps := s.sr.ps } ∧
      t.phase = .idle ∧ t.pend = none ∧ t.br = s.br ∧ t.buf = s.buf ∧ t.cmd = s.cmd ∧
      t.result.extractLsb' 0 8 = 0#8 ∧
      t.busev = s.busev ++ (abandonEvents s.pend ++ (openingEvents aw reg a1 a2 a3 ++
        (actionEvents .send byte a4.1 0#8 ++ stopEvents s.cfg))) ∧
      (ok → t.result = 0#32 ∧ t.log = s.log)

/-- WRITE_REGISTERS (R112, R103, R105), on a bus that completes every action before the next step, with one answer for each byte and
BUF[0..n-1] written (`bs` its bytes): the bytes go out in index order after the opening, then STOP, no toggle; VALUE = n; BUF
is unchanged. n = 0 is a full transaction without data bytes. In FAITHFUL mode whatever the codes are. -/
def Obligations.WriteRegistersSendsTheBuffer : Prop :=
  ∀ (s : State) (addr7 : Addr7) (aw : Byte) (reg n : Byte) (a1 a2 a3 : Answer) (as : List Answer) (bs : List Byte) (c : Code) (b : Byte),
    Params.wf s.cfg = true → s.busy = false → aw.toNat = 2 * addr7.toNat → as.length = n.toNat → bs.length = n.toNat →
    (∀ k, k < n.toNat → s.buf.read k = bs[k]?) →
    let i : Instr := .writeRegisters addr7 reg n
    let ok := openingOk s.cfg a1 a2 a3 ∧ ∀ a ∈ as, Answer.isStatus a s.cfg.writeDataOk
    (s.cfg.mode = .faithful ∨ ok) →
    exec i s = .next (accept i (.start .issue) s) ∧
    ∃ t, execMoves i (openingMoves a1 a2 a3 ++ (burstWriteMoves as ++ (stopMoves c b ++ [.sequencer])))
        (accept i (.start .issue) s) = .next t ∧
      t.busy = false ∧ t.cr.toByte = 0x04#8 ∧ t.sr = { code := s.cfg.noInfo.extractLsb' 3 5, ps := s.sr.ps } ∧
      t.phase = .idle ∧ t.pend = none ∧ t.br = s.br ∧ t.buf = s.buf ∧ t.cmd = s.cmd ∧
      t.result.extractLsb' 0 8 = n ∧
      t.busev = s.busev ++ (abandonEvents s.pend ++ (openingEvents aw reg a1 a2 a3 ++
        (burstWriteEvents bs as ++ stopEvents s.cfg))) ∧
      (ok → t.result = n.setWidth 32 ∧ t.log = s.log)

/-- Where a command stops: exec answers a next state for every command with none running and at every position of the command's own,
except WRITE_REGISTERS at the step that reads a buffer byte nothing has written since reset; there and only there it stops
with the fault the spec asks for (R112, U6; log 9). -/
def Obligations.CommandsStopOnlyOnAnUnwrittenByte : Prop :=
  ∀ (i : Instr) (s : State),
    let unwritten (k : Nat) : Prop := ∃ (addr7 : Addr7) (reg n : Byte) (q : Seq),
      i = .writeRegisters addr7 reg n ∧ s.seq = some q ∧ q.pos = .loadBuf k ∧ s.buf.read k = none
    ((s.seq = none ∨ ∃ q, s.seq = some q ∧ posFits i q.pos = true) → (¬ ∃ k, unwritten k) → ∃ t, exec i s = .next t) ∧
    (∀ f, exec i s = .fault f ↔ ∃ k, unwritten k ∧ f = .bufUnwritten k)

/-- The step at which each command has its own effect, as one exec each: SET_BITRATE and INIT write SR.PS, BR and EN (R79, R80), the bus
commands issue (R83, R92 to R99), the byte commands load DR (R90), the two GET commands set VALUE (R101, R102), the
composites take, store and load their bytes (R109 to R112), and READ_REGISTER, at the toggle's second write, sets VALUE: the
byte taken, but 0 in HARDENED mode with an error named, and on the abort path VALUE as it is (R104, R108, R109). Everything
not named is unchanged. That PHASE and VALUE are written in the step of the access beside them, here PHASE in an issue's
step, VALUE in the step of the BR or BUF write and of the read, and both in the step of the toggle's second CR write, is the
model's reading (log 13). -/
def Obligations.EachCommandsStepAnswersItsEffect : Prop :=
  ∀ (s : State) (q : Seq), s.seq = some q →
    let issued (ph : Phase) (a : Action) (b : Byte) (cr : Cr) : State := { s with
      phase := ph
      cr := cr
      pend := some { act := a, byte := b }
      busev := s.busev ++ (abandonEvents s.pend ++ [.issued a b]) }
    let value (v : Byte) : State := { s with acc := { s.acc with value := v } }
    (∀ khz : BitVec 16, q.pos = .setPs → exec (.setBitrate khz) s = .next (goto q .setBr { s with
      sr := { code := s.sr.code, ps := if khz.toNat < 8 then 2#2 else if khz.toNat < 31 then 1#2 else 0#2 } })) ∧
    (∀ khz : BitVec 16, q.pos = .setBr →
      let n := s.cfg.fClk / (2000 * (if khz.toNat < 8 then 16 else if khz.toNat < 31 then 4 else 1) * khz.toNat)
      let d : Byte := BitVec.ofNat 8 (if 8 ≤ n then n - 8 else n)
      exec (.setBitrate khz) s = .next (goto q .finish { s with br := d, acc := { s.acc with value := d } })) ∧
    (q.pos = .enable → exec .init s = .next (goto q .finish { s with cr := { s.cr with en := true } })) ∧
    (q.pos = .start .issue →
      exec .sendStart s = .next (goto q (.start .delay) (issued .started .start 0#8 ⟨false, false, true, false, true⟩))) ∧
    (q.pos = .repeatedStart .issue → exec .sendRepeatedStart s =
      .next (goto q (.repeatedStart .delay) (issued .started .start 0#8 ⟨false, false, true, false, true⟩))) ∧
    (q.pos = .stop .issue →
      exec .sendStop s = .next (goto q (.stop (.spin 0)) (issued .stopped .stop 0#8 ⟨false, false, false, true, true⟩))) ∧
    (∀ x, q.pos = .byte .load → exec (.sendByte x) s = .next (goto q (.byte .issue) { s with dr := x })) ∧
    (∀ x, q.pos = .byte .issue →
      exec (.sendByte x) s = .next (goto q (.byte (.poll 0)) (issued .data .send s.dr ⟨false, false, false, false, true⟩))) ∧
    (∀ (a : Addr7) (x : Byte), x.toNat = 2 * a.toNat → q.pos = .writeAddress .load →
      exec (.sendWriteAddress a) s = .next (goto q (.writeAddress .issue) { s with dr := x })) ∧
    (∀ a, q.pos = .writeAddress .issue → exec (.sendWriteAddress a) s =
      .next (goto q (.writeAddress (.poll 0)) (issued .addressed .send s.dr ⟨false, false, false, false, true⟩))) ∧
    (∀ (a : Addr7) (x : Byte), x.toNat = 2 * a.toNat + 1 → q.pos = .readAddress .load →
      exec (.sendReadAddress a) s = .next (goto q (.readAddress .issue) { s with dr := x })) ∧
    (∀ a, q.pos = .readAddress .issue → exec (.sendReadAddress a) s =
      .next (goto q (.readAddress (.poll 0)) (issued .addressed .send s.dr ⟨false, false, false, false, true⟩))) ∧
    (∀ x, q.pos = .data 0 .load → exec (.sendData x) s = .next (goto q (.data 0 .issue) { s with dr := x })) ∧
    (∀ x, q.pos = .data 0 .issue →
      exec (.sendData x) s = .next (goto q (.data 0 (.poll 0)) (issued .data .send s.dr ⟨false, false, false, false, true⟩))) ∧
    (∀ ack, q.pos = .receive 0 .issue → exec (.receiveByte ack) s = .next (goto q (.receive 0 (.poll 0))
      (issued .data (if ack then .recvAck else .recvNack) 0#8 ⟨false, ack, false, false, true⟩))) ∧
    (q.pos = .readDr → exec .getReceivedByte s = .next (goto q .finish (value s.dr))) ∧
    (q.pos = .readSr → exec .getStatus s = .next (goto q .finish (value (s.sr.code ++ 0#3)))) ∧
    (∀ a r, q.pos = .readDr → exec (.readRegister a r) s = .next (goto { q with held := s.dr } (.stop .issue) s)) ∧
    (∀ a r, q.pos = .toggle .on → exec (.readRegister a r) s = .next (goto q .finish { s with
      cr := ⟨s.cr.int, false, false, false, true⟩
      phase := .idle
      acc := { s.acc with value :=
        if s.acc.aborted = true then s.acc.value
        else if s.cfg.mode = .hardened ∧ s.acc.errKind ≠ .none then 0#8
        else q.held } })) ∧
    (∀ a r n k, q.pos = .storeBuf k → exec (.readRegisters a r n) s =
      .next (goto q (if k + 1 < n.toNat then .receive (k + 1) .issue else .stop .issue) { s with
        buf := s.buf.write k s.dr
        acc := { s.acc with value := BitVec.ofNat 8 (k + 1) } })) ∧
    (∀ a r b, q.pos = .data 0 .load → exec (.writeRegister a r b) s = .next (goto q (.data 0 .issue) { s with dr := b })) ∧
    (∀ a r n k b, q.pos = .loadBuf k → s.buf.read k = some b →
      exec (.writeRegisters a r n) s = .next (goto { q with held := b } (.data k .ready) s)) ∧
    (∀ a r n k, q.pos = .data k .load → exec (.writeRegisters a r n) s = .next (goto q (.data k .issue) { s with dr := q.held }))

/-! ## Polls, errors, hangs -/

/-- R81: a completion poll reads CR.INT once a step; it returns true at the read that finds INT = 1; without a completion it makes
exactly POLL_BUDGET reads and then times out, changing no state but its counter. -/
def Obligations.CompletionPollMakesExactlyItsBudgetOfReads : Prop :=
  ∀ (i : Instr) (s : State) (q : Seq) (p0 pt pd : Pos),
    1 ≤ s.cfg.pollBudget → s.seq = some q → posFits i q.pos = true →
    pollWith q.pos 0 = some p0 → q.pos = p0 → pollTimeout q.pos = some pt → pollDone q.pos = some pd →
    (s.cr.int = false →
      (∀ j pj, j < s.cfg.pollBudget → pollWith q.pos j = some pj →
        execMoves i (sequencerMoves j) s = .next { s with seq := some { q with pos := pj } }) ∧
      execMoves i (sequencerMoves s.cfg.pollBudget) s = .next { s with seq := some { q with pos := pt } }) ∧
    (∀ j pj, s.cr.int = true → pollWith q.pos j = some pj →
      exec i { s with seq := some { q with pos := pj } } = .next { s with seq := some { q with pos := pd } })

/-- R115: only the first error of a command is named; TIMEOUT and MISMATCH are set by the callers for every error, first or not; while a
command runs, the named error stays and the two flags are never cleared. -/
def Obligations.FirstErrorStaysNamed : Prop :=
  (∀ (a : Acc) (k : ErrKind) (ph : ErrPhase) (st : Byte),
    (a.errKind = .none → a.err k ph st = { a with errKind := k, errPhase := ph, errStatus := st }) ∧
    (a.errKind ≠ .none → a.err k ph st = a)) ∧
  (∀ (ph : ErrPhase) (e : Byte) (s : State),
    (recordTimeout ph s).acc.timeout = true ∧ (recordStopTimeout s).acc.timeout = true ∧ (recordMismatch ph e s).acc.mismatch = true) ∧
  (∀ (i : Instr) (s t : State), s.busy = true → exec i s = .next t →
    (s.acc.errKind ≠ .none → t.acc.errKind = s.acc.errKind ∧ t.acc.errPhase = s.acc.errPhase ∧
      t.acc.errStatus = s.acc.errStatus) ∧
    (s.acc.timeout = true → t.acc.timeout = true) ∧ (s.acc.mismatch = true → t.acc.mismatch = true))

/-- A post-check inside a composite (R86, R103, R104): when it fails it sets MISMATCH, names the error where none was named (kind by
R87, phase and status of the check) and logs (phase, expected, got); when it passes it names and logs nothing; it changes no
register of the bus controller. In HARDENED mode a false result then aborts to the stop with ABORTED = 1 and VALUE as it is; in
FAITHFUL mode, and where the result is true, the sequence goes on to the step a passing check leads to (R109 to R112), and
ABORTED stays. That ABORTED, and the VALUE of WRITE_REGISTERS, are written in the post-check's own step is the model's
reading (log 13). -/
def Obligations.CompositeAbortsOnlyInHardenedMode : Prop :=
  ∀ (i : Instr) (s : State) (q : Seq) (c : Bool) (phase : ErrPhase) (expected mask : Byte),
    isComposite i = true → s.seq = some q → posFits i q.pos = true →
    checkSite s.cfg q.pos = some (c, phase, expected, mask) →
    ∃ t q', exec i s = .next t ∧ t.seq = some q' ∧
      (s.sr.status &&& mask ≠ expected →
        t.acc.mismatch = true ∧ t.log = s.log ++ [{ phase := phase, expected := expected, got := s.sr.status }] ∧
        (s.acc.errKind = .none → t.acc.errPhase = phase ∧ t.acc.errStatus = s.sr.status ∧
          t.acc.errKind = (if (expected = s.cfg.writeAddressOk ∧ s.sr.status = s.cfg.writeAddressNack) ∨
              (expected = s.cfg.readAddressOk ∧ s.sr.status = s.cfg.readAddressNack) ∨
              (expected = s.cfg.writeDataOk ∧ s.sr.status = s.cfg.writeDataNack) then .nack else .busError))) ∧
      ((s.acc.errKind ≠ .none ∨ s.sr.status &&& mask = expected) → t.acc.errKind = s.acc.errKind ∧
        t.acc.errPhase = s.acc.errPhase ∧ t.acc.errStatus = s.acc.errStatus) ∧
      (s.sr.status &&& mask = expected → t.acc.mismatch = s.acc.mismatch ∧ t.log = s.log) ∧
      t.cr = s.cr ∧ t.sr = s.sr ∧ t.dr = s.dr ∧ t.pend = s.pend ∧ t.busev = s.busev ∧
      (s.cfg.mode = .hardened → (c = false ∨ s.sr.status &&& mask ≠ expected) →
        q'.pos = .stop .issue ∧ t.acc.aborted = true ∧ t.acc.value = s.acc.value) ∧
      ((s.cfg.mode = .faithful ∨ (c = true ∧ s.sr.status &&& mask = expected)) →
        t.acc.aborted = s.acc.aborted ∧ some q'.pos = afterCheck i q.pos ∧
        t.acc.value = valueAfterCheck i q.pos s.acc.value)

/-- The end of a composite (R104, R105, R107): a read goes from its stop to the toggle and from there to finish, a write from its stop
to finish, whether it aborted or not; the end of the stop poll and the toggle set PHASE IDLE (R36, R91, R94), and a composite
that finishes leaves it IDLE. That the stop poll's end and the toggle set it in the step of the STO read and of the second CR write
is the model's reading (log 13), and that a finish too writes it is log 20. -/
def Obligations.ReadsToggleAndWritesDoNot : Prop :=
  ∀ (i : Instr) (s t : State) (q : Seq), isComposite i = true → s.seq = some q → exec i s = .next t →
    (q.pos = .finish → t.phase = .idle ∧ t.busy = false) ∧
    (∀ q', t.seq = some q' →
      (∀ p, q.pos = .stop p → (∃ p', q'.pos = .stop p') ∨
        (t.phase = .idle ∧ q'.pos = (match i with
          | .writeRegister _ _ _ => .finish | .writeRegisters _ _ _ => .finish | _ => .toggle .off))) ∧
      (q.pos = .toggle .on → q'.pos = .finish ∧ t.phase = .idle ∧ t.cr.en = true) ∧
      (q.pos = .toggle .off → q'.pos = .toggle .on ∧ t.cr.en = false))

/-- R135: in FAITHFUL mode the stop spin has no bound: while the bus agent does not complete the STOP every sequencer step leaves the
state as it is, BUSY = 1, for ever; in SEND_STOP and in every composite. HARDENED mode bounds it: within STOP_BUDGET reads
(one, where STOP_BUDGET is 0) the spin gives up. -/
def Obligations.StopSpinIsUnboundedOnlyInFaithfulMode : Prop :=
  ∀ (i : Instr) (s : State) (q : Seq) (k n : Nat),
    s.seq = some q → q.pos = .stop (.spin k) → s.cr.sto = true → (i = .sendStop ∨ isComposite i = true) →
    (s.cfg.mode = .faithful → execMoves i (sequencerMoves n) s = .next s ∧ s.busy = true) ∧
    (s.cfg.mode = .hardened → ∃ m, m ≤ max 1 s.cfg.stopBudget ∧
      execMoves i (sequencerMoves m) s = .next { s with seq := some { q with pos := .stop .timeout } })

/-- Late completion (R137) of a receive: after the timeout of RECEIVE_BYTE, ack or nack, the action stays pending; a later bus move
completes it, and GET_STATUS and GET_RECEIVED_BYTE then return the late status and byte. -/
def Obligations.LateReceiveCompletionIsVisible : Prop :=
  ∀ (s : State) (ack : Bool) (c : Code) (b : Byte), Params.wf s.cfg = true → s.busy = false →
    ∃ t, execMoves (.receiveByte ack) (sequencerMoves (1 + s.cfg.pollBudget + 3))
        (accept (.receiveByte ack) (.receive 0 .issue) s) = .next t ∧
      t.busy = false ∧ t.acc.timeout = true ∧ t.dr = s.dr ∧
      t.pend = some { act := if ack then .recvAck else .recvNack, byte := 0#8 } ∧
      (∃ u, execMoves .getStatus (sequencerMoves 2) (accept .getStatus .readSr (busStep c b t)) = .next u ∧
        u.result = (c ++ 0#3 : Byte).setWidth 32) ∧
      (∃ u, execMoves .getReceivedByte (sequencerMoves 2) (accept .getReceivedByte .readDr (busStep c b t)) = .next u ∧
        u.result = b.setWidth 32)

/-- A HARDENED command always finishes (R106 for the composites, D25): from any position it may stand at there is a number of sequencer
steps after which it has finished, whatever bus moves stand between them, unless it faults on an unwritten buffer byte. -/
def Obligations.HardenedCommandsAlwaysFinish : Prop :=
  ∀ (i : Instr) (s : State) (q : Seq), s.cfg.mode = .hardened → s.seq = some q → posFits i q.pos = true →
    ∃ bound : Nat, ∀ (ms : List Move) (t : State), (∀ m ∈ ms, m.internal = true) →
      bound ≤ ms.countP (fun m => decide (m = .sequencer)) → execMoves i ms s = .next t → t.busy = false

/-! ## Frames -/

/-- No command changes the parameters, CMD, the byte latch, OVERRUN, the host fault record or the inputs (R33: "The sequencer never
writes CMD"; R17, R35, R118). -/
def Obligations.CommandsLeaveHostItemsAlone : Prop :=
  ∀ (i : Instr) (s t : State), exec i s = .next t →
    t.cfg = s.cfg ∧ t.cmd = s.cmd ∧ t.latch = s.latch ∧ t.overrun = s.overrun ∧ t.hostFaults = s.hostFaults ∧
    t.hostData = s.hostData ∧ t.inputs = s.inputs ∧ t.tick = s.tick

/-- BUF (R37, R110): a command changes it only at READ_REGISTERS' store step, and there only at its index, which takes DR; every other
byte reads as before. Nothing else a command does stores to BUF. -/
def Obligations.BufferChangesOnlyAtTheStoreStep : Prop :=
  ∀ (i : Instr) (s t : State), exec i s = .next t →
    (∀ (q : Seq) (k : Nat) (addr7 : Addr7) (reg n : Byte), s.seq = some q → q.pos = .storeBuf k →
      i = .readRegisters addr7 reg n →
      t.buf.read k = some s.dr ∧ ∀ a, a ≠ k → t.buf.read a = s.buf.read a) ∧
    ((¬ ∃ (q : Seq) (k : Nat) (addr7 : Addr7) (reg n : Byte), s.seq = some q ∧ q.pos = .storeBuf k ∧
      i = .readRegisters addr7 reg n) → t.buf = s.buf)

/-- BR and SR.PS are written by SET_BITRATE and INIT only (R32, D42); these two leave SR.CODE, DR, PEND, PHASE, LOG, BUSEV and BUF
alone and SET_BITRATE leaves CR alone (R79, R80). -/
def Obligations.OnlyBitrateCommandsWriteBrAndPs : Prop :=
  ∀ (i : Instr) (s t : State), exec i s = .next t →
    ((∀ khz, i ≠ .setBitrate khz) → i ≠ .init → t.br = s.br ∧ t.sr.ps = s.sr.ps) ∧
    (((∃ khz, i = .setBitrate khz) ∨ i = .init) →
      t.sr.code = s.sr.code ∧ t.dr = s.dr ∧ t.pend = s.pend ∧ t.phase = s.phase ∧ t.log = s.log ∧ t.busev = s.busev ∧
      t.buf = s.buf) ∧
    ((∃ khz, i = .setBitrate khz) → t.cr = s.cr)

/-- DR (R31): the sequencer writes it only at the load step of SendByte; SR.CODE is changed by the sequencer only at the toggle (R26,
R27); CR, PEND and BUSEV only by an issue, by INIT's enable, or by the toggle (R25). -/
def Obligations.ControllerRegistersChangeOnlyAtTheirSteps : Prop :=
  ∀ (i : Instr) (s t : State), exec i s = .next t →
    (t.dr ≠ s.dr → ∃ q, s.seq = some q ∧ (q.pos = .byte .load ∨ q.pos = .writeAddress .load ∨ q.pos = .readAddress .load ∨
      q.pos = .subAddress .load ∨ ∃ k, q.pos = .data k .load)) ∧
    (t.sr.code ≠ s.sr.code → ∃ q, s.seq = some q ∧ q.pos = .toggle .off) ∧
    ((t.cr ≠ s.cr ∨ t.pend ≠ s.pend ∨ t.busev ≠ s.busev) →
      ∃ q, s.seq = some q ∧ (q.pos = .enable ∨ q.pos = .toggle .off ∨ q.pos = .toggle .on ∨
        q.pos = .start .issue ∨ q.pos = .repeatedStart .issue ∨ q.pos = .stop .issue ∨ q.pos = .byte .issue ∨
        q.pos = .writeAddress .issue ∨ q.pos = .readAddress .issue ∨ q.pos = .subAddress .issue ∨
        (∃ k, q.pos = .data k .issue) ∨ ∃ k, q.pos = .receive k .issue))

/-- RESULT (R34): a command writes it only at its finish, from ACC, which also ends it and of a composite leaves PHASE IDLE (R107), and
at a rejection; while it runs RESULT holds the previous result. That a composite's finish writes PHASE in this step is log 20. -/
def Obligations.ResultChangesOnlyAtFinishOrRejection : Prop :=
  ∀ (i : Instr) (s t : State), exec i s = .next t →
    (∀ q, s.seq = some q → q.pos = .finish → t = { s with
      result := pack s.acc
      seq := none
      phase := if isComposite i then .idle else s.phase }) ∧
    (∀ q, s.seq = some q → q.pos ≠ .finish →
      t.result = s.result ∧ ∃ q', t.seq = some q' ∧ q'.cur = q.cur) ∧
    (s.seq = none → i ≠ .setBitrate 0#16 → t.result = s.result)

/-- The histories are only appended to (R41), a step appends at most one log record, and a command logs only at a post-check (R117);
reset alone starts them empty.
That a host access which is not admitted keeps this is the model's choice (log 8). -/
def Obligations.HistoriesOnlyGrow : Prop :=
  (∀ s t : State, step s = .next t → (∀ rest, s.inputs ≠ .reset :: rest) → s.log <+: t.log ∧ s.busev <+: t.busev) ∧
  (∀ (i : Instr) (s t : State), exec i s = .next t → t.log ≠ s.log →
    (∃ e, t.log = s.log ++ [e] ∧ e.got = s.sr.status) ∧
    ∃ q site, s.seq = some q ∧ checkSite s.cfg q.pos = some site)

/-- While a command runs, no step but reset changes CUR or discards the position other than its own finish (R38, R59, R121: no
cancellation).
That a host access which is not admitted keeps this is the model's choice (log 8). -/
def Obligations.RunningCommandIsNeverReplaced : Prop :=
  ∀ (s t : State) (q : Seq), step s = .next t → s.seq = some q → (∀ rest, s.inputs ≠ .reset :: rest) →
    (∃ q', t.seq = some q' ∧ q'.cur = q.cur) ∨ (q.pos = .finish ∧ t.seq = none ∧ t.result = pack s.acc)

/-- HSTAT.PHASE is informational, LOG and BUSEV are never read (R36, R41), and nothing reads BR or, but for the mask of the status value,
SR.PS (R30, R32): a command started in two states that differ only in these answers states that differ only in these. -/
def Obligations.PhaseHistoriesAndBrAreNeverRead : Prop :=
  ∀ (i : Instr) (s : State) (ph : Phase) (br : Byte) (ps : BitVec 2) (lg : List LogEntry) (ev : List BusEvent) (t : State),
    exec i s = .next t →
    ∃ ph' br' ps' lg' ev', exec i { s with phase := ph, br := br, sr := { s.sr with ps := ps }, log := lg, busev := ev } =
      .next { t with phase := ph', br := br', sr := { t.sr with ps := ps' }, log := lg', busev := ev' }

/-! ## Invariants of every step -/

/-- BUF keeps its canonical form, CUR stays an accepted command and the position one of its own, with the burst index inside the
count; so no step from such a state answers noSuchPosition (R37, R38, R68, R69).
That a host access which is not admitted keeps this is the model's choice (log 8). -/
def Obligations.PositionAndBufferStayWellFormed : Prop :=
  ∀ s : State, s.positionFits = true → s.buf.wf = true →
    (∀ t, step s = .next t → t.positionFits = true ∧ t.buf.wf = true) ∧ step s ≠ .refused .noSuchPosition

/-- CR and PEND stay coherent under every step of every agent (R20, R23 to R26, R39, R42).
That a host access which is not admitted keeps this is the model's choice (log 8). -/
def Obligations.ControllerStaysCoherent : Prop :=
  ∀ s t : State, s.ControllerInv → step s = .next t → t.ControllerInv

/-- ACC stays consistent, and FAITHFUL mode never reaches a step, a flag or an error kind of HARDENED mode (R40, R94, R103 to R104,
R114, R115).
That a host access which is not admitted keeps this is the model's choice (log 8). -/
def Obligations.AccumulatorStaysConsistent : Prop :=
  ∀ s t : State, s.AccInv → s.modeFits = true → step s = .next t → t.AccInv ∧ t.modeFits = true

/-- R30: prescaler 1 is encoded 0, 4 is encoded 1, 16 is encoded 2, and the value 3 is never written by the block.
That a host access which is not admitted keeps this is the model's choice (log 8). -/
def Obligations.PrescalerThreeIsNeverWritten : Prop :=
  (∀ khz : Nat, (prescaler khz = 1 ∧ prescalerCode khz = 0#2) ∨ (prescaler khz = 4 ∧ prescalerCode khz = 1#2) ∨
    (prescaler khz = 16 ∧ prescalerCode khz = 2#2)) ∧
  (∀ s t : State, step s = .next t → s.sr.ps ≠ 3#2 → t.sr.ps ≠ 3#2)

/-- Every invariant holds after reset with any parameters (R44, R129), and the run so far is admitted. The last clause is the model's
choice: State.reset has no host fault recorded (log 11). -/
def Obligations.ResetMeetsEveryInvariant : Prop :=
  ∀ p : Params,
    (State.resetWith p).positionFits = true ∧ (State.resetWith p).buf.wf = true ∧ (State.resetWith p).ControllerInv ∧
    (State.resetWith p).AccInv ∧ (State.resetWith p).modeFits = true ∧ (State.resetWith p).sr.ps ≠ 3#2 ∧
    (State.resetWith p).admitted = true
end

