-- ==== Sys2Proof/Laws/Bits.lean ====
section
/-! SUPPORT. Fields, formats and register views as natural numbers, so that encoding facts reduce to linear arithmetic. -/

namespace Sys2Proof

/-- Concatenation as a sum. -/
theorem toNat_append_add {m n : Nat} (x : BitVec m) (y : BitVec n) : (x ++ y).toNat = x.toNat * 2 ^ n + y.toNat := by
  rw [BitVec.toNat_append, ← Nat.shiftLeft_add_eq_or_of_lt y.isLt, Nat.shiftLeft_eq]

/-- A field as a quotient and a remainder. -/
theorem toNat_extractLsb'_div {n : Nat} (x : BitVec n) (lo len : Nat) :
    (x.extractLsb' lo len).toNat = x.toNat / 2 ^ lo % 2 ^ len := by
  rw [BitVec.extractLsb'_toNat, Nat.shiftRight_eq_div_pow]

theorem opField_toNat (w : Word) : (opField w).toNat = w.toNat / 2 ^ 24 % 2 ^ 8 := toNat_extractLsb'_div ..
theorem zField_toNat (w : Word) : (zField w).toNat = w.toNat / 2 ^ 23 % 2 ^ 1 := toNat_extractLsb'_div ..
theorem addr7Field_toNat (w : Word) : (addr7Field w).toNat = w.toNat / 2 ^ 16 % 2 ^ 7 := toNat_extractLsb'_div ..
theorem regField_toNat (w : Word) : (regField w).toNat = w.toNat / 2 ^ 8 % 2 ^ 8 := toNat_extractLsb'_div ..
theorem dataField_toNat (w : Word) : (dataField w).toNat = w.toNat / 2 ^ 0 % 2 ^ 8 := toNat_extractLsb'_div ..
theorem khzField_toNat (w : Word) : (khzField w).toNat = w.toNat / 2 ^ 0 % 2 ^ 16 := toNat_extractLsb'_div ..
theorem ackField_eq (w : Word) : ackField w = decide (w.toNat % 2 = 1) := by
  simp [ackField, BitVec.getElem_eq_testBit_toNat, Nat.testBit_zero]

theorem formatN_toNat (op : Byte) : (formatN op).toNat = op.toNat * 2 ^ 24 := by
  rw [formatN, toNat_append_add]; simp
theorem formatK_toNat (op : Byte) (k : BitVec 16) : (formatK op k).toNat = op.toNat * 2 ^ 24 + k.toNat := by
  have := toNat_append_add (op ++ 0#8) k
  rw [formatK, this, toNat_append_add]; simp; omega
theorem formatB_toNat (op d : Byte) : (formatB op d).toNat = op.toNat * 2 ^ 24 + d.toNat := by
  have := toNat_append_add (op ++ 0#16) d
  rw [formatB, this, toNat_append_add]; simp; omega
theorem formatA_toNat (op : Byte) (a : Addr7) : (formatA op a).toNat = op.toNat * 2 ^ 24 + a.toNat * 2 ^ 16 := by
  have := toNat_append_add (op ++ 0#1 ++ a) 0#16
  rw [formatA, this, toNat_append_add, toNat_append_add]; simp; omega
theorem formatR_toNat (op : Byte) (ack : Bool) : (formatR op ack).toNat = op.toNat * 2 ^ 24 + ack.toNat := by
  have := toNat_append_add (op ++ 0#23) (BitVec.ofBool ack)
  rw [formatR, this, toNat_append_add]; simp; omega
theorem formatT3_toNat (op : Byte) (a : Addr7) (r : Byte) :
    (formatT3 op a r).toNat = op.toNat * 2 ^ 24 + a.toNat * 2 ^ 16 + r.toNat * 2 ^ 8 := by
  have := toNat_append_add (op ++ 0#1 ++ a ++ r) 0#8
  rw [formatT3, this, toNat_append_add, toNat_append_add, toNat_append_add]; simp; omega
theorem formatT4_toNat (op : Byte) (a : Addr7) (r d : Byte) :
    (formatT4 op a r d).toNat = op.toNat * 2 ^ 24 + a.toNat * 2 ^ 16 + r.toNat * 2 ^ 8 + d.toNat := by
  have := toNat_append_add (op ++ 0#1 ++ a ++ r) d
  rw [formatT4, this, toNat_append_add, toNat_append_add, toNat_append_add]; simp; omega

/-- An equality test on bit vectors as one on numbers. -/
theorem beq_iff_toNat {n : Nat} (x y : BitVec n) : (x == y) = true ↔ x.toNat = y.toNat := by
  rw [beq_iff_eq, BitVec.toNat_inj]

namespace Machine

/-- The status value does not depend on the prescaler (R28 of 10_state.md). -/
theorem status_eq_code (r : Sr) : r.status = statusOfCode r.code := by
  obtain ⟨c, p⟩ := r
  apply BitVec.eq_of_toNat_eq
  have hc := c.isLt
  have hp := p.isLt
  have h1 : (Sr.toByte ⟨c, p⟩).toNat = c.toNat * 8 + p.toNat := by
    have := toNat_append_add (c ++ 0#1) p
    rw [Sr.toByte, this, toNat_append_add]; simp; omega
  have h2 : (statusOfCode c).toNat = c.toNat * 8 := by
    rw [statusOfCode, toNat_append_add]; simp
  rw [Sr.status, BitVec.toNat_and, h1, h2]
  have h3 : ∀ c < 32, ∀ p < 4, (c * 8 + p) &&& 0xF8 = c * 8 := by decide
  simpa using h3 _ hc _ hp

/-- The full mask keeps a status value (R86 of 41_primitives.md). -/
theorem status_and_fullMask (r : Sr) : r.status &&& fullMask = r.status := by
  rw [Sr.status, fullMask, BitVec.and_assoc]; rfl

end Machine

end Sys2Proof
end

