-- ==== Sys2Proof/Laws/State.lean ====
section
/-! SUPPORT. One lemma per field per shared update of State, so that no proof unfolds a record update. -/

namespace Sys2Proof.Machine

/-! `disableEffects` -/

@[simp] theorem disableEffects_cfg (s : State) : (disableEffects s).cfg = s.cfg := rfl
@[simp] theorem disableEffects_cr (s : State) : (disableEffects s).cr = { s.cr with int := false, sta := false, sto := false, ea := false } := rfl
@[simp] theorem disableEffects_sr (s : State) : (disableEffects s).sr = { s.sr with code := codeOfStatus s.cfg.noInfo } := rfl
@[simp] theorem disableEffects_dr (s : State) : (disableEffects s).dr = s.dr := rfl
@[simp] theorem disableEffects_br (s : State) : (disableEffects s).br = s.br := rfl
@[simp] theorem disableEffects_cmd (s : State) : (disableEffects s).cmd = s.cmd := rfl
@[simp] theorem disableEffects_latch (s : State) : (disableEffects s).latch = s.latch := rfl
@[simp] theorem disableEffects_result (s : State) : (disableEffects s).result = s.result := rfl
@[simp] theorem disableEffects_overrun (s : State) : (disableEffects s).overrun = s.overrun := rfl
@[simp] theorem disableEffects_phase (s : State) : (disableEffects s).phase = s.phase := rfl
@[simp] theorem disableEffects_buf (s : State) : (disableEffects s).buf = s.buf := rfl
@[simp] theorem disableEffects_pend (s : State) : (disableEffects s).pend = none := rfl
@[simp] theorem disableEffects_seq (s : State) : (disableEffects s).seq = s.seq := rfl
@[simp] theorem disableEffects_acc (s : State) : (disableEffects s).acc = s.acc := rfl
@[simp] theorem disableEffects_log (s : State) : (disableEffects s).log = s.log := rfl
@[simp] theorem disableEffects_busev (s : State) : (disableEffects s).busev = s.busev ++ [.disabled] := rfl
@[simp] theorem disableEffects_hostFaults (s : State) : (disableEffects s).hostFaults = s.hostFaults := rfl
@[simp] theorem disableEffects_hostData (s : State) : (disableEffects s).hostData = s.hostData := rfl
@[simp] theorem disableEffects_inputs (s : State) : (disableEffects s).inputs = s.inputs := rfl
@[simp] theorem disableEffects_tick (s : State) : (disableEffects s).tick = s.tick := rfl

/-! `writeCr` -/

@[simp] theorem writeCr_cfg (v : Byte) (s : State) : (writeCr v s).cfg = s.cfg := by unfold writeCr; split <;> rfl
@[simp] theorem writeCr_dr (v : Byte) (s : State) : (writeCr v s).dr = s.dr := by unfold writeCr; split <;> rfl
@[simp] theorem writeCr_br (v : Byte) (s : State) : (writeCr v s).br = s.br := by unfold writeCr; split <;> rfl
@[simp] theorem writeCr_cmd (v : Byte) (s : State) : (writeCr v s).cmd = s.cmd := by unfold writeCr; split <;> rfl
@[simp] theorem writeCr_latch (v : Byte) (s : State) : (writeCr v s).latch = s.latch := by unfold writeCr; split <;> rfl
@[simp] theorem writeCr_result (v : Byte) (s : State) : (writeCr v s).result = s.result := by unfold writeCr; split <;> rfl
@[simp] theorem writeCr_overrun (v : Byte) (s : State) : (writeCr v s).overrun = s.overrun := by unfold writeCr; split <;> rfl
@[simp] theorem writeCr_phase (v : Byte) (s : State) : (writeCr v s).phase = s.phase := by unfold writeCr; split <;> rfl
@[simp] theorem writeCr_buf (v : Byte) (s : State) : (writeCr v s).buf = s.buf := by unfold writeCr; split <;> rfl
@[simp] theorem writeCr_seq (v : Byte) (s : State) : (writeCr v s).seq = s.seq := by unfold writeCr; split <;> rfl
@[simp] theorem writeCr_acc (v : Byte) (s : State) : (writeCr v s).acc = s.acc := by unfold writeCr; split <;> rfl
@[simp] theorem writeCr_log (v : Byte) (s : State) : (writeCr v s).log = s.log := by unfold writeCr; split <;> rfl
@[simp] theorem writeCr_hostFaults (v : Byte) (s : State) : (writeCr v s).hostFaults = s.hostFaults := by unfold writeCr; split <;> rfl
@[simp] theorem writeCr_hostData (v : Byte) (s : State) : (writeCr v s).hostData = s.hostData := by unfold writeCr; split <;> rfl
@[simp] theorem writeCr_inputs (v : Byte) (s : State) : (writeCr v s).inputs = s.inputs := by unfold writeCr; split <;> rfl
@[simp] theorem writeCr_tick (v : Byte) (s : State) : (writeCr v s).tick = s.tick := by unfold writeCr; split <;> rfl

/-! `issue` -/

@[simp] theorem issue_cfg (a : Action) (s : State) : (issue a s).cfg = s.cfg := by cases a <;> simp [issue, writeCr, crPattern]
@[simp] theorem issue_cr (a : Action) (s : State) : (issue a s).cr = s.cr.written (crPattern a) := by cases a <;> simp [issue, writeCr, crPattern]
@[simp] theorem issue_sr (a : Action) (s : State) : (issue a s).sr = s.sr := by cases a <;> simp [issue, writeCr, crPattern]
@[simp] theorem issue_dr (a : Action) (s : State) : (issue a s).dr = s.dr := by cases a <;> simp [issue, writeCr, crPattern]
@[simp] theorem issue_br (a : Action) (s : State) : (issue a s).br = s.br := by cases a <;> simp [issue, writeCr, crPattern]
@[simp] theorem issue_cmd (a : Action) (s : State) : (issue a s).cmd = s.cmd := by cases a <;> simp [issue, writeCr, crPattern]
@[simp] theorem issue_latch (a : Action) (s : State) : (issue a s).latch = s.latch := by cases a <;> simp [issue, writeCr, crPattern]
@[simp] theorem issue_result (a : Action) (s : State) : (issue a s).result = s.result := by cases a <;> simp [issue, writeCr, crPattern]
@[simp] theorem issue_overrun (a : Action) (s : State) : (issue a s).overrun = s.overrun := by cases a <;> simp [issue, writeCr, crPattern]
@[simp] theorem issue_phase (a : Action) (s : State) : (issue a s).phase = s.phase := by cases a <;> simp [issue, writeCr, crPattern]
@[simp] theorem issue_buf (a : Action) (s : State) : (issue a s).buf = s.buf := by cases a <;> simp [issue, writeCr, crPattern]
@[simp] theorem issue_pend (a : Action) (s : State) : (issue a s).pend = some { act := a, byte := issuedByte a s } := rfl
@[simp] theorem issue_seq (a : Action) (s : State) : (issue a s).seq = s.seq := by cases a <;> simp [issue, writeCr, crPattern]
@[simp] theorem issue_acc (a : Action) (s : State) : (issue a s).acc = s.acc := by cases a <;> simp [issue, writeCr, crPattern]
@[simp] theorem issue_log (a : Action) (s : State) : (issue a s).log = s.log := by cases a <;> simp [issue, writeCr, crPattern]
@[simp] theorem issue_busev (a : Action) (s : State) : (issue a s).busev = s.busev ++ issueEvents a s := rfl
@[simp] theorem issue_hostFaults (a : Action) (s : State) : (issue a s).hostFaults = s.hostFaults := by cases a <;> simp [issue, writeCr, crPattern]
@[simp] theorem issue_hostData (a : Action) (s : State) : (issue a s).hostData = s.hostData := by cases a <;> simp [issue, writeCr, crPattern]
@[simp] theorem issue_inputs (a : Action) (s : State) : (issue a s).inputs = s.inputs := by cases a <;> simp [issue, writeCr, crPattern]
@[simp] theorem issue_tick (a : Action) (s : State) : (issue a s).tick = s.tick := by cases a <;> simp [issue, writeCr, crPattern]

/-! `issueIn` -/

@[simp] theorem issueIn_cfg (ph : Phase) (a : Action) (s : State) : (issueIn ph a s).cfg = s.cfg := by simp [issueIn]
@[simp] theorem issueIn_cr (ph : Phase) (a : Action) (s : State) : (issueIn ph a s).cr = s.cr.written (crPattern a) := by simp [issueIn]
@[simp] theorem issueIn_sr (ph : Phase) (a : Action) (s : State) : (issueIn ph a s).sr = s.sr := by simp [issueIn]
@[simp] theorem issueIn_dr (ph : Phase) (a : Action) (s : State) : (issueIn ph a s).dr = s.dr := by simp [issueIn]
@[simp] theorem issueIn_br (ph : Phase) (a : Action) (s : State) : (issueIn ph a s).br = s.br := by simp [issueIn]
@[simp] theorem issueIn_cmd (ph : Phase) (a : Action) (s : State) : (issueIn ph a s).cmd = s.cmd := by simp [issueIn]
@[simp] theorem issueIn_latch (ph : Phase) (a : Action) (s : State) : (issueIn ph a s).latch = s.latch := by simp [issueIn]
@[simp] theorem issueIn_result (ph : Phase) (a : Action) (s : State) : (issueIn ph a s).result = s.result := by simp [issueIn]
@[simp] theorem issueIn_overrun (ph : Phase) (a : Action) (s : State) : (issueIn ph a s).overrun = s.overrun := by simp [issueIn]
@[simp] theorem issueIn_phase (ph : Phase) (a : Action) (s : State) : (issueIn ph a s).phase = ph := by simp [issueIn]
@[simp] theorem issueIn_buf (ph : Phase) (a : Action) (s : State) : (issueIn ph a s).buf = s.buf := by simp [issueIn]
@[simp] theorem issueIn_pend (ph : Phase) (a : Action) (s : State) : (issueIn ph a s).pend = some { act := a, byte := issuedByte a s } := by simp [issueIn, issuedByte]
@[simp] theorem issueIn_seq (ph : Phase) (a : Action) (s : State) : (issueIn ph a s).seq = s.seq := by simp [issueIn]
@[simp] theorem issueIn_acc (ph : Phase) (a : Action) (s : State) : (issueIn ph a s).acc = s.acc := by simp [issueIn]
@[simp] theorem issueIn_log (ph : Phase) (a : Action) (s : State) : (issueIn ph a s).log = s.log := by simp [issueIn]
@[simp] theorem issueIn_busev (ph : Phase) (a : Action) (s : State) : (issueIn ph a s).busev = s.busev ++ issueEvents a s := by simp [issueIn, issueEvents, issuedByte]
@[simp] theorem issueIn_hostFaults (ph : Phase) (a : Action) (s : State) : (issueIn ph a s).hostFaults = s.hostFaults := by simp [issueIn]
@[simp] theorem issueIn_hostData (ph : Phase) (a : Action) (s : State) : (issueIn ph a s).hostData = s.hostData := by simp [issueIn]
@[simp] theorem issueIn_inputs (ph : Phase) (a : Action) (s : State) : (issueIn ph a s).inputs = s.inputs := by simp [issueIn]
@[simp] theorem issueIn_tick (ph : Phase) (a : Action) (s : State) : (issueIn ph a s).tick = s.tick := by simp [issueIn]

/-! `recordTimeout` -/

@[simp] theorem recordTimeout_cfg (ph : ErrPhase) (s : State) : (recordTimeout ph s).cfg = s.cfg := rfl
@[simp] theorem recordTimeout_cr (ph : ErrPhase) (s : State) : (recordTimeout ph s).cr = s.cr := rfl
@[simp] theorem recordTimeout_sr (ph : ErrPhase) (s : State) : (recordTimeout ph s).sr = s.sr := rfl
@[simp] theorem recordTimeout_dr (ph : ErrPhase) (s : State) : (recordTimeout ph s).dr = s.dr := rfl
@[simp] theorem recordTimeout_br (ph : ErrPhase) (s : State) : (recordTimeout ph s).br = s.br := rfl
@[simp] theorem recordTimeout_cmd (ph : ErrPhase) (s : State) : (recordTimeout ph s).cmd = s.cmd := rfl
@[simp] theorem recordTimeout_latch (ph : ErrPhase) (s : State) : (recordTimeout ph s).latch = s.latch := rfl
@[simp] theorem recordTimeout_result (ph : ErrPhase) (s : State) : (recordTimeout ph s).result = s.result := rfl
@[simp] theorem recordTimeout_overrun (ph : ErrPhase) (s : State) : (recordTimeout ph s).overrun = s.overrun := rfl
@[simp] theorem recordTimeout_phase (ph : ErrPhase) (s : State) : (recordTimeout ph s).phase = s.phase := rfl
@[simp] theorem recordTimeout_buf (ph : ErrPhase) (s : State) : (recordTimeout ph s).buf = s.buf := rfl
@[simp] theorem recordTimeout_pend (ph : ErrPhase) (s : State) : (recordTimeout ph s).pend = s.pend := rfl
@[simp] theorem recordTimeout_seq (ph : ErrPhase) (s : State) : (recordTimeout ph s).seq = s.seq := rfl
@[simp] theorem recordTimeout_acc (ph : ErrPhase) (s : State) : (recordTimeout ph s).acc = s.acc.timedOut .timeout ph s.sr.status := rfl
@[simp] theorem recordTimeout_log (ph : ErrPhase) (s : State) : (recordTimeout ph s).log = s.log := rfl
@[simp] theorem recordTimeout_busev (ph : ErrPhase) (s : State) : (recordTimeout ph s).busev = s.busev := rfl
@[simp] theorem recordTimeout_hostFaults (ph : ErrPhase) (s : State) : (recordTimeout ph s).hostFaults = s.hostFaults := rfl
@[simp] theorem recordTimeout_hostData (ph : ErrPhase) (s : State) : (recordTimeout ph s).hostData = s.hostData := rfl
@[simp] theorem recordTimeout_inputs (ph : ErrPhase) (s : State) : (recordTimeout ph s).inputs = s.inputs := rfl
@[simp] theorem recordTimeout_tick (ph : ErrPhase) (s : State) : (recordTimeout ph s).tick = s.tick := rfl

/-! `recordStopTimeout` -/

@[simp] theorem recordStopTimeout_cfg (s : State) : (recordStopTimeout s).cfg = s.cfg := rfl
@[simp] theorem recordStopTimeout_cr (s : State) : (recordStopTimeout s).cr = s.cr := rfl
@[simp] theorem recordStopTimeout_sr (s : State) : (recordStopTimeout s).sr = s.sr := rfl
@[simp] theorem recordStopTimeout_dr (s : State) : (recordStopTimeout s).dr = s.dr := rfl
@[simp] theorem recordStopTimeout_br (s : State) : (recordStopTimeout s).br = s.br := rfl
@[simp] theorem recordStopTimeout_cmd (s : State) : (recordStopTimeout s).cmd = s.cmd := rfl
@[simp] theorem recordStopTimeout_latch (s : State) : (recordStopTimeout s).latch = s.latch := rfl
@[simp] theorem recordStopTimeout_result (s : State) : (recordStopTimeout s).result = s.result := rfl
@[simp] theorem recordStopTimeout_overrun (s : State) : (recordStopTimeout s).overrun = s.overrun := rfl
@[simp] theorem recordStopTimeout_phase (s : State) : (recordStopTimeout s).phase = .idle := rfl
@[simp] theorem recordStopTimeout_buf (s : State) : (recordStopTimeout s).buf = s.buf := rfl
@[simp] theorem recordStopTimeout_pend (s : State) : (recordStopTimeout s).pend = s.pend := rfl
@[simp] theorem recordStopTimeout_seq (s : State) : (recordStopTimeout s).seq = s.seq := rfl
@[simp] theorem recordStopTimeout_acc (s : State) : (recordStopTimeout s).acc = s.acc.timedOut .stopTimeout .stop s.sr.status := rfl
@[simp] theorem recordStopTimeout_log (s : State) : (recordStopTimeout s).log = s.log := rfl
@[simp] theorem recordStopTimeout_busev (s : State) : (recordStopTimeout s).busev = s.busev := rfl
@[simp] theorem recordStopTimeout_hostFaults (s : State) : (recordStopTimeout s).hostFaults = s.hostFaults := rfl
@[simp] theorem recordStopTimeout_hostData (s : State) : (recordStopTimeout s).hostData = s.hostData := rfl
@[simp] theorem recordStopTimeout_inputs (s : State) : (recordStopTimeout s).inputs = s.inputs := rfl
@[simp] theorem recordStopTimeout_tick (s : State) : (recordStopTimeout s).tick = s.tick := rfl

/-! `recordMismatch` -/

@[simp] theorem recordMismatch_cfg (ph : ErrPhase) (e : Byte) (s : State) : (recordMismatch ph e s).cfg = s.cfg := rfl
@[simp] theorem recordMismatch_cr (ph : ErrPhase) (e : Byte) (s : State) : (recordMismatch ph e s).cr = s.cr := rfl
@[simp] theorem recordMismatch_sr (ph : ErrPhase) (e : Byte) (s : State) : (recordMismatch ph e s).sr = s.sr := rfl
@[simp] theorem recordMismatch_dr (ph : ErrPhase) (e : Byte) (s : State) : (recordMismatch ph e s).dr = s.dr := rfl
@[simp] theorem recordMismatch_br (ph : ErrPhase) (e : Byte) (s : State) : (recordMismatch ph e s).br = s.br := rfl
@[simp] theorem recordMismatch_cmd (ph : ErrPhase) (e : Byte) (s : State) : (recordMismatch ph e s).cmd = s.cmd := rfl
@[simp] theorem recordMismatch_latch (ph : ErrPhase) (e : Byte) (s : State) : (recordMismatch ph e s).latch = s.latch := rfl
@[simp] theorem recordMismatch_result (ph : ErrPhase) (e : Byte) (s : State) : (recordMismatch ph e s).result = s.result := rfl
@[simp] theorem recordMismatch_overrun (ph : ErrPhase) (e : Byte) (s : State) : (recordMismatch ph e s).overrun = s.overrun := rfl
@[simp] theorem recordMismatch_phase (ph : ErrPhase) (e : Byte) (s : State) : (recordMismatch ph e s).phase = s.phase := rfl
@[simp] theorem recordMismatch_buf (ph : ErrPhase) (e : Byte) (s : State) : (recordMismatch ph e s).buf = s.buf := rfl
@[simp] theorem recordMismatch_pend (ph : ErrPhase) (e : Byte) (s : State) : (recordMismatch ph e s).pend = s.pend := rfl
@[simp] theorem recordMismatch_seq (ph : ErrPhase) (e : Byte) (s : State) : (recordMismatch ph e s).seq = s.seq := rfl
@[simp] theorem recordMismatch_acc (ph : ErrPhase) (e : Byte) (s : State) : (recordMismatch ph e s).acc = Acc.err { s.acc with mismatch := true } (classify s.cfg e s.sr.status) ph s.sr.status := rfl
@[simp] theorem recordMismatch_log (ph : ErrPhase) (e : Byte) (s : State) : (recordMismatch ph e s).log = s.log ++ [{ phase := ph, expected := e, got := s.sr.status }] := rfl
@[simp] theorem recordMismatch_busev (ph : ErrPhase) (e : Byte) (s : State) : (recordMismatch ph e s).busev = s.busev := rfl
@[simp] theorem recordMismatch_hostFaults (ph : ErrPhase) (e : Byte) (s : State) : (recordMismatch ph e s).hostFaults = s.hostFaults := rfl
@[simp] theorem recordMismatch_hostData (ph : ErrPhase) (e : Byte) (s : State) : (recordMismatch ph e s).hostData = s.hostData := rfl
@[simp] theorem recordMismatch_inputs (ph : ErrPhase) (e : Byte) (s : State) : (recordMismatch ph e s).inputs = s.inputs := rfl
@[simp] theorem recordMismatch_tick (ph : ErrPhase) (e : Byte) (s : State) : (recordMismatch ph e s).tick = s.tick := rfl

/-! `check` -/

@[simp] theorem check_cfg (ph : ErrPhase) (e m : Byte) (s : State) : (check ph e m s).cfg = s.cfg := by unfold check; split <;> rfl
@[simp] theorem check_cr (ph : ErrPhase) (e m : Byte) (s : State) : (check ph e m s).cr = s.cr := by unfold check; split <;> rfl
@[simp] theorem check_sr (ph : ErrPhase) (e m : Byte) (s : State) : (check ph e m s).sr = s.sr := by unfold check; split <;> rfl
@[simp] theorem check_dr (ph : ErrPhase) (e m : Byte) (s : State) : (check ph e m s).dr = s.dr := by unfold check; split <;> rfl
@[simp] theorem check_br (ph : ErrPhase) (e m : Byte) (s : State) : (check ph e m s).br = s.br := by unfold check; split <;> rfl
@[simp] theorem check_cmd (ph : ErrPhase) (e m : Byte) (s : State) : (check ph e m s).cmd = s.cmd := by unfold check; split <;> rfl
@[simp] theorem check_latch (ph : ErrPhase) (e m : Byte) (s : State) : (check ph e m s).latch = s.latch := by unfold check; split <;> rfl
@[simp] theorem check_result (ph : ErrPhase) (e m : Byte) (s : State) : (check ph e m s).result = s.result := by unfold check; split <;> rfl
@[simp] theorem check_overrun (ph : ErrPhase) (e m : Byte) (s : State) : (check ph e m s).overrun = s.overrun := by unfold check; split <;> rfl
@[simp] theorem check_phase (ph : ErrPhase) (e m : Byte) (s : State) : (check ph e m s).phase = s.phase := by unfold check; split <;> rfl
@[simp] theorem check_buf (ph : ErrPhase) (e m : Byte) (s : State) : (check ph e m s).buf = s.buf := by unfold check; split <;> rfl
@[simp] theorem check_pend (ph : ErrPhase) (e m : Byte) (s : State) : (check ph e m s).pend = s.pend := by unfold check; split <;> rfl
@[simp] theorem check_seq (ph : ErrPhase) (e m : Byte) (s : State) : (check ph e m s).seq = s.seq := by unfold check; split <;> rfl
@[simp] theorem check_busev (ph : ErrPhase) (e m : Byte) (s : State) : (check ph e m s).busev = s.busev := by unfold check; split <;> rfl
@[simp] theorem check_hostFaults (ph : ErrPhase) (e m : Byte) (s : State) : (check ph e m s).hostFaults = s.hostFaults := by unfold check; split <;> rfl
@[simp] theorem check_hostData (ph : ErrPhase) (e m : Byte) (s : State) : (check ph e m s).hostData = s.hostData := by unfold check; split <;> rfl
@[simp] theorem check_inputs (ph : ErrPhase) (e m : Byte) (s : State) : (check ph e m s).inputs = s.inputs := by unfold check; split <;> rfl
@[simp] theorem check_tick (ph : ErrPhase) (e m : Byte) (s : State) : (check ph e m s).tick = s.tick := by unfold check; split <;> rfl

/-! `accept` -/

@[simp] theorem accept_cfg (i : Instr) (p : Pos) (s : State) : (accept i p s).cfg = s.cfg := rfl
@[simp] theorem accept_cr (i : Instr) (p : Pos) (s : State) : (accept i p s).cr = s.cr := rfl
@[simp] theorem accept_sr (i : Instr) (p : Pos) (s : State) : (accept i p s).sr = s.sr := rfl
@[simp] theorem accept_dr (i : Instr) (p : Pos) (s : State) : (accept i p s).dr = s.dr := rfl
@[simp] theorem accept_br (i : Instr) (p : Pos) (s : State) : (accept i p s).br = s.br := rfl
@[simp] theorem accept_cmd (i : Instr) (p : Pos) (s : State) : (accept i p s).cmd = s.cmd := rfl
@[simp] theorem accept_latch (i : Instr) (p : Pos) (s : State) : (accept i p s).latch = s.latch := rfl
@[simp] theorem accept_result (i : Instr) (p : Pos) (s : State) : (accept i p s).result = s.result := rfl
@[simp] theorem accept_overrun (i : Instr) (p : Pos) (s : State) : (accept i p s).overrun = s.overrun := rfl
@[simp] theorem accept_phase (i : Instr) (p : Pos) (s : State) : (accept i p s).phase = s.phase := rfl
@[simp] theorem accept_buf (i : Instr) (p : Pos) (s : State) : (accept i p s).buf = s.buf := rfl
@[simp] theorem accept_pend (i : Instr) (p : Pos) (s : State) : (accept i p s).pend = s.pend := rfl
@[simp] theorem accept_seq (i : Instr) (p : Pos) (s : State) : (accept i p s).seq = some { cur := encode i, pos := p, held := 0#8 } := rfl
@[simp] theorem accept_acc (i : Instr) (p : Pos) (s : State) : (accept i p s).acc = Acc.zero := rfl
@[simp] theorem accept_log (i : Instr) (p : Pos) (s : State) : (accept i p s).log = s.log := rfl
@[simp] theorem accept_busev (i : Instr) (p : Pos) (s : State) : (accept i p s).busev = s.busev := rfl
@[simp] theorem accept_hostFaults (i : Instr) (p : Pos) (s : State) : (accept i p s).hostFaults = s.hostFaults := rfl
@[simp] theorem accept_hostData (i : Instr) (p : Pos) (s : State) : (accept i p s).hostData = s.hostData := rfl
@[simp] theorem accept_inputs (i : Instr) (p : Pos) (s : State) : (accept i p s).inputs = s.inputs := rfl
@[simp] theorem accept_tick (i : Instr) (p : Pos) (s : State) : (accept i p s).tick = s.tick := rfl

/-! `reject` -/

@[simp] theorem reject_cfg (k : ErrKind) (s : State) : (reject k s).cfg = s.cfg := rfl
@[simp] theorem reject_cr (k : ErrKind) (s : State) : (reject k s).cr = s.cr := rfl
@[simp] theorem reject_sr (k : ErrKind) (s : State) : (reject k s).sr = s.sr := rfl
@[simp] theorem reject_dr (k : ErrKind) (s : State) : (reject k s).dr = s.dr := rfl
@[simp] theorem reject_br (k : ErrKind) (s : State) : (reject k s).br = s.br := rfl
@[simp] theorem reject_cmd (k : ErrKind) (s : State) : (reject k s).cmd = s.cmd := rfl
@[simp] theorem reject_latch (k : ErrKind) (s : State) : (reject k s).latch = s.latch := rfl
@[simp] theorem reject_result (k : ErrKind) (s : State) : (reject k s).result = rejectionResult k := rfl
@[simp] theorem reject_overrun (k : ErrKind) (s : State) : (reject k s).overrun = s.overrun := rfl
@[simp] theorem reject_phase (k : ErrKind) (s : State) : (reject k s).phase = s.phase := rfl
@[simp] theorem reject_buf (k : ErrKind) (s : State) : (reject k s).buf = s.buf := rfl
@[simp] theorem reject_pend (k : ErrKind) (s : State) : (reject k s).pend = s.pend := rfl
@[simp] theorem reject_seq (k : ErrKind) (s : State) : (reject k s).seq = s.seq := rfl
@[simp] theorem reject_acc (k : ErrKind) (s : State) : (reject k s).acc = s.acc := rfl
@[simp] theorem reject_log (k : ErrKind) (s : State) : (reject k s).log = s.log := rfl
@[simp] theorem reject_busev (k : ErrKind) (s : State) : (reject k s).busev = s.busev := rfl
@[simp] theorem reject_hostFaults (k : ErrKind) (s : State) : (reject k s).hostFaults = s.hostFaults := rfl
@[simp] theorem reject_hostData (k : ErrKind) (s : State) : (reject k s).hostData = s.hostData := rfl
@[simp] theorem reject_inputs (k : ErrKind) (s : State) : (reject k s).inputs = s.inputs := rfl
@[simp] theorem reject_tick (k : ErrKind) (s : State) : (reject k s).tick = s.tick := rfl

/-! `goto` -/

@[simp] theorem goto_cfg (q : Seq) (p : Pos) (s : State) : (goto q p s).cfg = s.cfg := rfl
@[simp] theorem goto_cr (q : Seq) (p : Pos) (s : State) : (goto q p s).cr = s.cr := rfl
@[simp] theorem goto_sr (q : Seq) (p : Pos) (s : State) : (goto q p s).sr = s.sr := rfl
@[simp] theorem goto_dr (q : Seq) (p : Pos) (s : State) : (goto q p s).dr = s.dr := rfl
@[simp] theorem goto_br (q : Seq) (p : Pos) (s : State) : (goto q p s).br = s.br := rfl
@[simp] theorem goto_cmd (q : Seq) (p : Pos) (s : State) : (goto q p s).cmd = s.cmd := rfl
@[simp] theorem goto_latch (q : Seq) (p : Pos) (s : State) : (goto q p s).latch = s.latch := rfl
@[simp] theorem goto_result (q : Seq) (p : Pos) (s : State) : (goto q p s).result = s.result := rfl
@[simp] theorem goto_overrun (q : Seq) (p : Pos) (s : State) : (goto q p s).overrun = s.overrun := rfl
@[simp] theorem goto_phase (q : Seq) (p : Pos) (s : State) : (goto q p s).phase = s.phase := rfl
@[simp] theorem goto_buf (q : Seq) (p : Pos) (s : State) : (goto q p s).buf = s.buf := rfl
@[simp] theorem goto_pend (q : Seq) (p : Pos) (s : State) : (goto q p s).pend = s.pend := rfl
@[simp] theorem goto_seq (q : Seq) (p : Pos) (s : State) : (goto q p s).seq = some { q with pos := p } := rfl
@[simp] theorem goto_acc (q : Seq) (p : Pos) (s : State) : (goto q p s).acc = s.acc := rfl
@[simp] theorem goto_log (q : Seq) (p : Pos) (s : State) : (goto q p s).log = s.log := rfl
@[simp] theorem goto_busev (q : Seq) (p : Pos) (s : State) : (goto q p s).busev = s.busev := rfl
@[simp] theorem goto_hostFaults (q : Seq) (p : Pos) (s : State) : (goto q p s).hostFaults = s.hostFaults := rfl
@[simp] theorem goto_hostData (q : Seq) (p : Pos) (s : State) : (goto q p s).hostData = s.hostData := rfl
@[simp] theorem goto_inputs (q : Seq) (p : Pos) (s : State) : (goto q p s).inputs = s.inputs := rfl
@[simp] theorem goto_tick (q : Seq) (p : Pos) (s : State) : (goto q p s).tick = s.tick := rfl

/-! `finish` -/

@[simp] theorem finish_cfg (s : State) : (finish s).cfg = s.cfg := rfl
@[simp] theorem finish_cr (s : State) : (finish s).cr = s.cr := rfl
@[simp] theorem finish_sr (s : State) : (finish s).sr = s.sr := rfl
@[simp] theorem finish_dr (s : State) : (finish s).dr = s.dr := rfl
@[simp] theorem finish_br (s : State) : (finish s).br = s.br := rfl
@[simp] theorem finish_cmd (s : State) : (finish s).cmd = s.cmd := rfl
@[simp] theorem finish_latch (s : State) : (finish s).latch = s.latch := rfl
@[simp] theorem finish_result (s : State) : (finish s).result = pack s.acc := rfl
@[simp] theorem finish_overrun (s : State) : (finish s).overrun = s.overrun := rfl
@[simp] theorem finish_phase (s : State) : (finish s).phase = s.phase := rfl
@[simp] theorem finish_buf (s : State) : (finish s).buf = s.buf := rfl
@[simp] theorem finish_pend (s : State) : (finish s).pend = s.pend := rfl
@[simp] theorem finish_seq (s : State) : (finish s).seq = none := rfl
@[simp] theorem finish_acc (s : State) : (finish s).acc = s.acc := rfl
@[simp] theorem finish_log (s : State) : (finish s).log = s.log := rfl
@[simp] theorem finish_busev (s : State) : (finish s).busev = s.busev := rfl
@[simp] theorem finish_hostFaults (s : State) : (finish s).hostFaults = s.hostFaults := rfl
@[simp] theorem finish_hostData (s : State) : (finish s).hostData = s.hostData := rfl
@[simp] theorem finish_inputs (s : State) : (finish s).inputs = s.inputs := rfl
@[simp] theorem finish_tick (s : State) : (finish s).tick = s.tick := rfl

/-! `finishComposite` -/

@[simp] theorem finishComposite_cfg (s : State) : (finishComposite s).cfg = s.cfg := rfl
@[simp] theorem finishComposite_cr (s : State) : (finishComposite s).cr = s.cr := rfl
@[simp] theorem finishComposite_sr (s : State) : (finishComposite s).sr = s.sr := rfl
@[simp] theorem finishComposite_dr (s : State) : (finishComposite s).dr = s.dr := rfl
@[simp] theorem finishComposite_br (s : State) : (finishComposite s).br = s.br := rfl
@[simp] theorem finishComposite_cmd (s : State) : (finishComposite s).cmd = s.cmd := rfl
@[simp] theorem finishComposite_latch (s : State) : (finishComposite s).latch = s.latch := rfl
@[simp] theorem finishComposite_overrun (s : State) : (finishComposite s).overrun = s.overrun := rfl
@[simp] theorem finishComposite_buf (s : State) : (finishComposite s).buf = s.buf := rfl
@[simp] theorem finishComposite_pend (s : State) : (finishComposite s).pend = s.pend := rfl
@[simp] theorem finishComposite_acc (s : State) : (finishComposite s).acc = s.acc := rfl
@[simp] theorem finishComposite_log (s : State) : (finishComposite s).log = s.log := rfl
@[simp] theorem finishComposite_busev (s : State) : (finishComposite s).busev = s.busev := rfl
@[simp] theorem finishComposite_hostFaults (s : State) : (finishComposite s).hostFaults = s.hostFaults := rfl
@[simp] theorem finishComposite_hostData (s : State) : (finishComposite s).hostData = s.hostData := rfl
@[simp] theorem finishComposite_inputs (s : State) : (finishComposite s).inputs = s.inputs := rfl
@[simp] theorem finishComposite_tick (s : State) : (finishComposite s).tick = s.tick := rfl
@[simp] theorem finishComposite_result (s : State) : (finishComposite s).result = pack s.acc := rfl
@[simp] theorem finishComposite_phase (s : State) : (finishComposite s).phase = .idle := rfl
@[simp] theorem finishComposite_seq (s : State) : (finishComposite s).seq = none := rfl

/-! `setValue` -/

@[simp] theorem setValue_cfg (v : Byte) (s : State) : (setValue v s).cfg = s.cfg := rfl
@[simp] theorem setValue_cr (v : Byte) (s : State) : (setValue v s).cr = s.cr := rfl
@[simp] theorem setValue_sr (v : Byte) (s : State) : (setValue v s).sr = s.sr := rfl
@[simp] theorem setValue_dr (v : Byte) (s : State) : (setValue v s).dr = s.dr := rfl
@[simp] theorem setValue_br (v : Byte) (s : State) : (setValue v s).br = s.br := rfl
@[simp] theorem setValue_cmd (v : Byte) (s : State) : (setValue v s).cmd = s.cmd := rfl
@[simp] theorem setValue_latch (v : Byte) (s : State) : (setValue v s).latch = s.latch := rfl
@[simp] theorem setValue_result (v : Byte) (s : State) : (setValue v s).result = s.result := rfl
@[simp] theorem setValue_overrun (v : Byte) (s : State) : (setValue v s).overrun = s.overrun := rfl
@[simp] theorem setValue_phase (v : Byte) (s : State) : (setValue v s).phase = s.phase := rfl
@[simp] theorem setValue_buf (v : Byte) (s : State) : (setValue v s).buf = s.buf := rfl
@[simp] theorem setValue_pend (v : Byte) (s : State) : (setValue v s).pend = s.pend := rfl
@[simp] theorem setValue_seq (v : Byte) (s : State) : (setValue v s).seq = s.seq := rfl
@[simp] theorem setValue_acc (v : Byte) (s : State) : (setValue v s).acc = { s.acc with value := v } := rfl
@[simp] theorem setValue_log (v : Byte) (s : State) : (setValue v s).log = s.log := rfl
@[simp] theorem setValue_busev (v : Byte) (s : State) : (setValue v s).busev = s.busev := rfl
@[simp] theorem setValue_hostFaults (v : Byte) (s : State) : (setValue v s).hostFaults = s.hostFaults := rfl
@[simp] theorem setValue_hostData (v : Byte) (s : State) : (setValue v s).hostData = s.hostData := rfl
@[simp] theorem setValue_inputs (v : Byte) (s : State) : (setValue v s).inputs = s.inputs := rfl
@[simp] theorem setValue_tick (v : Byte) (s : State) : (setValue v s).tick = s.tick := rfl

/-! `abort` -/

@[simp] theorem abort_cfg (q : Seq) (s : State) : (abort q s).cfg = s.cfg := rfl
@[simp] theorem abort_cr (q : Seq) (s : State) : (abort q s).cr = s.cr := rfl
@[simp] theorem abort_sr (q : Seq) (s : State) : (abort q s).sr = s.sr := rfl
@[simp] theorem abort_dr (q : Seq) (s : State) : (abort q s).dr = s.dr := rfl
@[simp] theorem abort_br (q : Seq) (s : State) : (abort q s).br = s.br := rfl
@[simp] theorem abort_cmd (q : Seq) (s : State) : (abort q s).cmd = s.cmd := rfl
@[simp] theorem abort_latch (q : Seq) (s : State) : (abort q s).latch = s.latch := rfl
@[simp] theorem abort_result (q : Seq) (s : State) : (abort q s).result = s.result := rfl
@[simp] theorem abort_overrun (q : Seq) (s : State) : (abort q s).overrun = s.overrun := rfl
@[simp] theorem abort_phase (q : Seq) (s : State) : (abort q s).phase = s.phase := rfl
@[simp] theorem abort_buf (q : Seq) (s : State) : (abort q s).buf = s.buf := rfl
@[simp] theorem abort_pend (q : Seq) (s : State) : (abort q s).pend = s.pend := rfl
@[simp] theorem abort_seq (q : Seq) (s : State) : (abort q s).seq = some { q with pos := .stop .issue } := rfl
@[simp] theorem abort_acc (q : Seq) (s : State) : (abort q s).acc = { s.acc with aborted := true } := rfl
@[simp] theorem abort_log (q : Seq) (s : State) : (abort q s).log = s.log := rfl
@[simp] theorem abort_busev (q : Seq) (s : State) : (abort q s).busev = s.busev := rfl
@[simp] theorem abort_hostFaults (q : Seq) (s : State) : (abort q s).hostFaults = s.hostFaults := rfl
@[simp] theorem abort_hostData (q : Seq) (s : State) : (abort q s).hostData = s.hostData := rfl
@[simp] theorem abort_inputs (q : Seq) (s : State) : (abort q s).inputs = s.inputs := rfl
@[simp] theorem abort_tick (q : Seq) (s : State) : (abort q s).tick = s.tick := rfl

/-! `completeStop` -/

@[simp] theorem completeStop_cfg (s : State) : (completeStop s).cfg = s.cfg := rfl
@[simp] theorem completeStop_cr (s : State) : (completeStop s).cr = { s.cr with sto := false } := rfl
@[simp] theorem completeStop_sr (s : State) : (completeStop s).sr = { s.sr with code := codeOfStatus s.cfg.noInfo } := rfl
@[simp] theorem completeStop_dr (s : State) : (completeStop s).dr = s.dr := rfl
@[simp] theorem completeStop_br (s : State) : (completeStop s).br = s.br := rfl
@[simp] theorem completeStop_cmd (s : State) : (completeStop s).cmd = s.cmd := rfl
@[simp] theorem completeStop_latch (s : State) : (completeStop s).latch = s.latch := rfl
@[simp] theorem completeStop_result (s : State) : (completeStop s).result = s.result := rfl
@[simp] theorem completeStop_overrun (s : State) : (completeStop s).overrun = s.overrun := rfl
@[simp] theorem completeStop_phase (s : State) : (completeStop s).phase = s.phase := rfl
@[simp] theorem completeStop_buf (s : State) : (completeStop s).buf = s.buf := rfl
@[simp] theorem completeStop_pend (s : State) : (completeStop s).pend = none := rfl
@[simp] theorem completeStop_seq (s : State) : (completeStop s).seq = s.seq := rfl
@[simp] theorem completeStop_acc (s : State) : (completeStop s).acc = s.acc := rfl
@[simp] theorem completeStop_log (s : State) : (completeStop s).log = s.log := rfl
@[simp] theorem completeStop_busev (s : State) : (completeStop s).busev = s.busev ++ [.completed .stop s.cfg.noInfo 0#8] := rfl
@[simp] theorem completeStop_hostFaults (s : State) : (completeStop s).hostFaults = s.hostFaults := rfl
@[simp] theorem completeStop_hostData (s : State) : (completeStop s).hostData = s.hostData := rfl
@[simp] theorem completeStop_inputs (s : State) : (completeStop s).inputs = s.inputs := rfl
@[simp] theorem completeStop_tick (s : State) : (completeStop s).tick = s.tick := rfl

/-! `completeAction` -/

@[simp] theorem completeAction_cfg (a : Action) (c : Code) (b : Byte) (s : State) : (completeAction a c b s).cfg = s.cfg := rfl
@[simp] theorem completeAction_cr (a : Action) (c : Code) (b : Byte) (s : State) : (completeAction a c b s).cr = { s.cr with int := true } := rfl
@[simp] theorem completeAction_sr (a : Action) (c : Code) (b : Byte) (s : State) : (completeAction a c b s).sr = { s.sr with code := c } := rfl
@[simp] theorem completeAction_dr (a : Action) (c : Code) (b : Byte) (s : State) : (completeAction a c b s).dr = if a.isReceive then b else s.dr := rfl
@[simp] theorem completeAction_br (a : Action) (c : Code) (b : Byte) (s : State) : (completeAction a c b s).br = s.br := rfl
@[simp] theorem completeAction_cmd (a : Action) (c : Code) (b : Byte) (s : State) : (completeAction a c b s).cmd = s.cmd := rfl
@[simp] theorem completeAction_latch (a : Action) (c : Code) (b : Byte) (s : State) : (completeAction a c b s).latch = s.latch := rfl
@[simp] theorem completeAction_result (a : Action) (c : Code) (b : Byte) (s : State) : (completeAction a c b s).result = s.result := rfl
@[simp] theorem completeAction_overrun (a : Action) (c : Code) (b : Byte) (s : State) : (completeAction a c b s).overrun = s.overrun := rfl
@[simp] theorem completeAction_phase (a : Action) (c : Code) (b : Byte) (s : State) : (completeAction a c b s).phase = s.phase := rfl
@[simp] theorem completeAction_buf (a : Action) (c : Code) (b : Byte) (s : State) : (completeAction a c b s).buf = s.buf := rfl
@[simp] theorem completeAction_pend (a : Action) (c : Code) (b : Byte) (s : State) : (completeAction a c b s).pend = none := rfl
@[simp] theorem completeAction_seq (a : Action) (c : Code) (b : Byte) (s : State) : (completeAction a c b s).seq = s.seq := rfl
@[simp] theorem completeAction_acc (a : Action) (c : Code) (b : Byte) (s : State) : (completeAction a c b s).acc = s.acc := rfl
@[simp] theorem completeAction_log (a : Action) (c : Code) (b : Byte) (s : State) : (completeAction a c b s).log = s.log := rfl
@[simp] theorem completeAction_busev (a : Action) (c : Code) (b : Byte) (s : State) : (completeAction a c b s).busev = s.busev ++ [.completed a (statusOfCode c) (if a.isReceive then b else 0#8)] := rfl
@[simp] theorem completeAction_hostFaults (a : Action) (c : Code) (b : Byte) (s : State) : (completeAction a c b s).hostFaults = s.hostFaults := rfl
@[simp] theorem completeAction_hostData (a : Action) (c : Code) (b : Byte) (s : State) : (completeAction a c b s).hostData = s.hostData := rfl
@[simp] theorem completeAction_inputs (a : Action) (c : Code) (b : Byte) (s : State) : (completeAction a c b s).inputs = s.inputs := rfl
@[simp] theorem completeAction_tick (a : Action) (c : Code) (b : Byte) (s : State) : (completeAction a c b s).tick = s.tick := rfl

/-! `busStep` -/

@[simp] theorem busStep_cfg (c : Code) (b : Byte) (s : State) : (busStep c b s).cfg = s.cfg := by unfold busStep; split <;> [(split <;> [rfl; (split <;> rfl)]); rfl]
@[simp] theorem busStep_br (c : Code) (b : Byte) (s : State) : (busStep c b s).br = s.br := by unfold busStep; split <;> [(split <;> [rfl; (split <;> rfl)]); rfl]
@[simp] theorem busStep_cmd (c : Code) (b : Byte) (s : State) : (busStep c b s).cmd = s.cmd := by unfold busStep; split <;> [(split <;> [rfl; (split <;> rfl)]); rfl]
@[simp] theorem busStep_latch (c : Code) (b : Byte) (s : State) : (busStep c b s).latch = s.latch := by unfold busStep; split <;> [(split <;> [rfl; (split <;> rfl)]); rfl]
@[simp] theorem busStep_result (c : Code) (b : Byte) (s : State) : (busStep c b s).result = s.result := by unfold busStep; split <;> [(split <;> [rfl; (split <;> rfl)]); rfl]
@[simp] theorem busStep_overrun (c : Code) (b : Byte) (s : State) : (busStep c b s).overrun = s.overrun := by unfold busStep; split <;> [(split <;> [rfl; (split <;> rfl)]); rfl]
@[simp] theorem busStep_phase (c : Code) (b : Byte) (s : State) : (busStep c b s).phase = s.phase := by unfold busStep; split <;> [(split <;> [rfl; (split <;> rfl)]); rfl]
@[simp] theorem busStep_buf (c : Code) (b : Byte) (s : State) : (busStep c b s).buf = s.buf := by unfold busStep; split <;> [(split <;> [rfl; (split <;> rfl)]); rfl]
@[simp] theorem busStep_seq (c : Code) (b : Byte) (s : State) : (busStep c b s).seq = s.seq := by unfold busStep; split <;> [(split <;> [rfl; (split <;> rfl)]); rfl]
@[simp] theorem busStep_acc (c : Code) (b : Byte) (s : State) : (busStep c b s).acc = s.acc := by unfold busStep; split <;> [(split <;> [rfl; (split <;> rfl)]); rfl]
@[simp] theorem busStep_log (c : Code) (b : Byte) (s : State) : (busStep c b s).log = s.log := by unfold busStep; split <;> [(split <;> [rfl; (split <;> rfl)]); rfl]
@[simp] theorem busStep_hostFaults (c : Code) (b : Byte) (s : State) : (busStep c b s).hostFaults = s.hostFaults := by unfold busStep; split <;> [(split <;> [rfl; (split <;> rfl)]); rfl]
@[simp] theorem busStep_hostData (c : Code) (b : Byte) (s : State) : (busStep c b s).hostData = s.hostData := by unfold busStep; split <;> [(split <;> [rfl; (split <;> rfl)]); rfl]
@[simp] theorem busStep_inputs (c : Code) (b : Byte) (s : State) : (busStep c b s).inputs = s.inputs := by unfold busStep; split <;> [(split <;> [rfl; (split <;> rfl)]); rfl]
@[simp] theorem busStep_tick (c : Code) (b : Byte) (s : State) : (busStep c b s).tick = s.tick := by unfold busStep; split <;> [(split <;> [rfl; (split <;> rfl)]); rfl]

/-! `setPrescaler` -/

@[simp] theorem setPrescaler_cfg (k : Nat) (s : State) : (setPrescaler k s).cfg = s.cfg := rfl
@[simp] theorem setPrescaler_cr (k : Nat) (s : State) : (setPrescaler k s).cr = s.cr := rfl
@[simp] theorem setPrescaler_sr (k : Nat) (s : State) : (setPrescaler k s).sr = { s.sr with ps := prescalerCode k } := rfl
@[simp] theorem setPrescaler_dr (k : Nat) (s : State) : (setPrescaler k s).dr = s.dr := rfl
@[simp] theorem setPrescaler_br (k : Nat) (s : State) : (setPrescaler k s).br = s.br := rfl
@[simp] theorem setPrescaler_cmd (k : Nat) (s : State) : (setPrescaler k s).cmd = s.cmd := rfl
@[simp] theorem setPrescaler_latch (k : Nat) (s : State) : (setPrescaler k s).latch = s.latch := rfl
@[simp] theorem setPrescaler_result (k : Nat) (s : State) : (setPrescaler k s).result = s.result := rfl
@[simp] theorem setPrescaler_overrun (k : Nat) (s : State) : (setPrescaler k s).overrun = s.overrun := rfl
@[simp] theorem setPrescaler_phase (k : Nat) (s : State) : (setPrescaler k s).phase = s.phase := rfl
@[simp] theorem setPrescaler_buf (k : Nat) (s : State) : (setPrescaler k s).buf = s.buf := rfl
@[simp] theorem setPrescaler_pend (k : Nat) (s : State) : (setPrescaler k s).pend = s.pend := rfl
@[simp] theorem setPrescaler_seq (k : Nat) (s : State) : (setPrescaler k s).seq = s.seq := rfl
@[simp] theorem setPrescaler_acc (k : Nat) (s : State) : (setPrescaler k s).acc = s.acc := rfl
@[simp] theorem setPrescaler_log (k : Nat) (s : State) : (setPrescaler k s).log = s.log := rfl
@[simp] theorem setPrescaler_busev (k : Nat) (s : State) : (setPrescaler k s).busev = s.busev := rfl
@[simp] theorem setPrescaler_hostFaults (k : Nat) (s : State) : (setPrescaler k s).hostFaults = s.hostFaults := rfl
@[simp] theorem setPrescaler_hostData (k : Nat) (s : State) : (setPrescaler k s).hostData = s.hostData := rfl
@[simp] theorem setPrescaler_inputs (k : Nat) (s : State) : (setPrescaler k s).inputs = s.inputs := rfl
@[simp] theorem setPrescaler_tick (k : Nat) (s : State) : (setPrescaler k s).tick = s.tick := rfl

/-! `setDivider` -/

@[simp] theorem setDivider_cfg (k : Nat) (s : State) : (setDivider k s).cfg = s.cfg := rfl
@[simp] theorem setDivider_cr (k : Nat) (s : State) : (setDivider k s).cr = s.cr := rfl
@[simp] theorem setDivider_sr (k : Nat) (s : State) : (setDivider k s).sr = s.sr := rfl
@[simp] theorem setDivider_dr (k : Nat) (s : State) : (setDivider k s).dr = s.dr := rfl
@[simp] theorem setDivider_br (k : Nat) (s : State) : (setDivider k s).br = brValue s.cfg.fClk k := rfl
@[simp] theorem setDivider_cmd (k : Nat) (s : State) : (setDivider k s).cmd = s.cmd := rfl
@[simp] theorem setDivider_latch (k : Nat) (s : State) : (setDivider k s).latch = s.latch := rfl
@[simp] theorem setDivider_result (k : Nat) (s : State) : (setDivider k s).result = s.result := rfl
@[simp] theorem setDivider_overrun (k : Nat) (s : State) : (setDivider k s).overrun = s.overrun := rfl
@[simp] theorem setDivider_phase (k : Nat) (s : State) : (setDivider k s).phase = s.phase := rfl
@[simp] theorem setDivider_buf (k : Nat) (s : State) : (setDivider k s).buf = s.buf := rfl
@[simp] theorem setDivider_pend (k : Nat) (s : State) : (setDivider k s).pend = s.pend := rfl
@[simp] theorem setDivider_seq (k : Nat) (s : State) : (setDivider k s).seq = s.seq := rfl
@[simp] theorem setDivider_acc (k : Nat) (s : State) : (setDivider k s).acc = s.acc := rfl
@[simp] theorem setDivider_log (k : Nat) (s : State) : (setDivider k s).log = s.log := rfl
@[simp] theorem setDivider_busev (k : Nat) (s : State) : (setDivider k s).busev = s.busev := rfl
@[simp] theorem setDivider_hostFaults (k : Nat) (s : State) : (setDivider k s).hostFaults = s.hostFaults := rfl
@[simp] theorem setDivider_hostData (k : Nat) (s : State) : (setDivider k s).hostData = s.hostData := rfl
@[simp] theorem setDivider_inputs (k : Nat) (s : State) : (setDivider k s).inputs = s.inputs := rfl
@[simp] theorem setDivider_tick (k : Nat) (s : State) : (setDivider k s).tick = s.tick := rfl

/-! `recordHostFault` -/

@[simp] theorem recordHostFault_cfg (f : HostFault) (s : State) : (recordHostFault f s).cfg = s.cfg := rfl
@[simp] theorem recordHostFault_cr (f : HostFault) (s : State) : (recordHostFault f s).cr = s.cr := rfl
@[simp] theorem recordHostFault_sr (f : HostFault) (s : State) : (recordHostFault f s).sr = s.sr := rfl
@[simp] theorem recordHostFault_dr (f : HostFault) (s : State) : (recordHostFault f s).dr = s.dr := rfl
@[simp] theorem recordHostFault_br (f : HostFault) (s : State) : (recordHostFault f s).br = s.br := rfl
@[simp] theorem recordHostFault_cmd (f : HostFault) (s : State) : (recordHostFault f s).cmd = s.cmd := rfl
@[simp] theorem recordHostFault_latch (f : HostFault) (s : State) : (recordHostFault f s).latch = s.latch := rfl
@[simp] theorem recordHostFault_result (f : HostFault) (s : State) : (recordHostFault f s).result = s.result := rfl
@[simp] theorem recordHostFault_overrun (f : HostFault) (s : State) : (recordHostFault f s).overrun = s.overrun := rfl
@[simp] theorem recordHostFault_phase (f : HostFault) (s : State) : (recordHostFault f s).phase = s.phase := rfl
@[simp] theorem recordHostFault_buf (f : HostFault) (s : State) : (recordHostFault f s).buf = s.buf := rfl
@[simp] theorem recordHostFault_pend (f : HostFault) (s : State) : (recordHostFault f s).pend = s.pend := rfl
@[simp] theorem recordHostFault_seq (f : HostFault) (s : State) : (recordHostFault f s).seq = s.seq := rfl
@[simp] theorem recordHostFault_acc (f : HostFault) (s : State) : (recordHostFault f s).acc = s.acc := rfl
@[simp] theorem recordHostFault_log (f : HostFault) (s : State) : (recordHostFault f s).log = s.log := rfl
@[simp] theorem recordHostFault_busev (f : HostFault) (s : State) : (recordHostFault f s).busev = s.busev := rfl
@[simp] theorem recordHostFault_hostFaults (f : HostFault) (s : State) : (recordHostFault f s).hostFaults = s.hostFaults ++ [f] := rfl
@[simp] theorem recordHostFault_hostData (f : HostFault) (s : State) : (recordHostFault f s).hostData = s.hostData := rfl
@[simp] theorem recordHostFault_inputs (f : HostFault) (s : State) : (recordHostFault f s).inputs = s.inputs := rfl
@[simp] theorem recordHostFault_tick (f : HostFault) (s : State) : (recordHostFault f s).tick = s.tick := rfl

/-! `returnData` -/

@[simp] theorem returnData_cfg (v : Word) (s : State) : (returnData v s).cfg = s.cfg := rfl
@[simp] theorem returnData_cr (v : Word) (s : State) : (returnData v s).cr = s.cr := rfl
@[simp] theorem returnData_sr (v : Word) (s : State) : (returnData v s).sr = s.sr := rfl
@[simp] theorem returnData_dr (v : Word) (s : State) : (returnData v s).dr = s.dr := rfl
@[simp] theorem returnData_br (v : Word) (s : State) : (returnData v s).br = s.br := rfl
@[simp] theorem returnData_cmd (v : Word) (s : State) : (returnData v s).cmd = s.cmd := rfl
@[simp] theorem returnData_latch (v : Word) (s : State) : (returnData v s).latch = s.latch := rfl
@[simp] theorem returnData_result (v : Word) (s : State) : (returnData v s).result = s.result := rfl
@[simp] theorem returnData_overrun (v : Word) (s : State) : (returnData v s).overrun = s.overrun := rfl
@[simp] theorem returnData_phase (v : Word) (s : State) : (returnData v s).phase = s.phase := rfl
@[simp] theorem returnData_buf (v : Word) (s : State) : (returnData v s).buf = s.buf := rfl
@[simp] theorem returnData_pend (v : Word) (s : State) : (returnData v s).pend = s.pend := rfl
@[simp] theorem returnData_seq (v : Word) (s : State) : (returnData v s).seq = s.seq := rfl
@[simp] theorem returnData_acc (v : Word) (s : State) : (returnData v s).acc = s.acc := rfl
@[simp] theorem returnData_log (v : Word) (s : State) : (returnData v s).log = s.log := rfl
@[simp] theorem returnData_busev (v : Word) (s : State) : (returnData v s).busev = s.busev := rfl
@[simp] theorem returnData_hostFaults (v : Word) (s : State) : (returnData v s).hostFaults = s.hostFaults := rfl
@[simp] theorem returnData_hostData (v : Word) (s : State) : (returnData v s).hostData = v := rfl
@[simp] theorem returnData_inputs (v : Word) (s : State) : (returnData v s).inputs = s.inputs := rfl
@[simp] theorem returnData_tick (v : Word) (s : State) : (returnData v s).tick = s.tick := rfl

end Sys2Proof.Machine
end

