-- ==== Sys2Proof/Laws/Procedures.lean ====
section
/-! SUPPORT. One lemma per shared operation that says everything it can do: polls, procedures, `call`, `do`, `command`, the bus step,
BUF. Provers cite these instead of unfolding the operation. -/

namespace Sys2Proof.Machine

/-! ## BUF -/

@[simp] theorem Memory.read_nil (i : Nat) : Memory.read [] i = none := rfl

theorem Memory.read_below {m : Memory} {lo i : Nat} (h : Memory.wfFrom lo m = true) (hi : i < lo) : m.read i = none := by
  cases m with
  | nil => rfl
  | cons c rest =>
    obtain ⟨a, b⟩ := c
    simp [Memory.wfFrom] at h
    have h1 : a ≠ i := by omega
    have h2 : i < a := by omega
    simp [Memory.read, h1, h2]

@[simp] theorem Memory.read_write_same (m : Memory) (i : Nat) (v : Byte) : (m.write i v).read i = some v := by
  induction m with
  | nil => simp [Memory.write, Memory.read]
  | cons c rest ih =>
    obtain ⟨a, b⟩ := c
    by_cases h1 : i < a
    · simp [Memory.write, h1, Memory.read]
    · by_cases h2 : a = i
      · simp [Memory.write, h2, Memory.read]
      · simp [Memory.write, h1, h2, Memory.read, ih]

theorem Memory.read_write_other (m : Memory) {i j : Nat} (v : Byte) (h : j ≠ i) : (m.write i v).read j = m.read j := by
  induction m with
  | nil =>
    simp only [Memory.write, Memory.read, Ne.symm h, if_false]
    split <;> rfl
  | cons c rest ih =>
    obtain ⟨a, b⟩ := c
    by_cases h1 : i < a
    · simp only [Memory.write, h1, if_true]
      rw [Memory.read]
      by_cases h3 : j < i
      · have h4 : a ≠ j := by omega
        have h5 : j < a := by omega
        simp [Memory.read, Ne.symm h, h3, h4, h5]
      · simp [Ne.symm h, h3]
    · by_cases h2 : a = i
      · subst h2
        simp [Memory.write, Memory.read, Ne.symm h]
      · simp [Memory.write, h1, h2, Memory.read, ih]

theorem Memory.wfFrom_mono {m : Memory} {lo lo' : Nat} (h : Memory.wfFrom lo m = true) (hl : lo' ≤ lo) :
    Memory.wfFrom lo' m = true := by
  cases m with
  | nil => rfl
  | cons c rest =>
    obtain ⟨a, b⟩ := c
    simp [Memory.wfFrom] at h ⊢
    exact ⟨⟨by omega, h.1.2⟩, h.2⟩

theorem Memory.write_wfFrom {m : Memory} {lo i : Nat} (v : Byte) (h : Memory.wfFrom lo m = true) (hl : lo ≤ i) (hi : i < 256) :
    Memory.wfFrom lo (m.write i v) = true := by
  induction m generalizing lo with
  | nil => simp [Memory.write, Memory.wfFrom, hl, hi]
  | cons c rest ih =>
    obtain ⟨a, b⟩ := c
    simp [Memory.wfFrom] at h
    by_cases h1 : i < a
    · simp only [Memory.write, h1, if_true, Memory.wfFrom]
      simp [hl, hi, h.1.2, h.2]; omega
    · by_cases h2 : a = i
      · subst h2
        simp [Memory.write, Memory.wfFrom, hl, hi, h.2]
      · have := ih (lo := a + 1) h.2 (by omega)
        simp [Memory.write, h1, h2, Memory.wfFrom, h.1, this]

/-- Every write of a byte of BUF keeps the canonical form. -/
theorem Memory.write_wf {m : Memory} {i : Nat} (v : Byte) (h : m.wf = true) (hi : i < 256) : (m.write i v).wf = true :=
  Memory.write_wfFrom v h (Nat.zero_le i) hi

/-- The memory after reset has the canonical form. -/
theorem reset_buf_wf : State.reset.buf.wf = true := by decide

/-! ## Operands -/

/-- The address byte as a number (R50 of 20_memory.md). -/
theorem addressByte_toNat (addr7 : Addr7) (rw : Bool) : (addressByte addr7 rw).toNat = 2 * addr7.toNat + rw.toNat := by
  revert addr7 rw; decide

/-! ## Polls -/

theorem pollRead_cases (budget k : Nat) (bit : Bool) :
    (bit = true ∧ pollRead budget k bit = .hit) ∨
    (bit = false ∧ k + 1 < budget ∧ pollRead budget k bit = .again (k + 1)) ∨
    (bit = false ∧ budget ≤ k + 1 ∧ pollRead budget k bit = .miss) := by
  unfold pollRead
  cases bit
  · by_cases h : k + 1 < budget
    · simp [h]
    · simp [h]; omega
  · simp

/-! ## Registers -/

theorem writeCr_disabling {v : Byte} {s : State} (h : s.cr.en = true) (hv : v[2] = false) :
    writeCr v s = disableEffects { s with cr := s.cr.written v } := by simp [writeCr, h, hv]

theorem writeCr_plain {v : Byte} {s : State} (h : s.cr.en = false ∨ v[2] = true) :
    writeCr v s = { s with cr := s.cr.written v } := by
  rcases h with h | h <;> simp [writeCr, h]

/-- CR just after an issue (R83 of 41_primitives.md). -/
@[simp] theorem written_crPattern (c : Cr) (a : Action) :
    c.written (crPattern a) = { int := false, ea := decide (a = .recvAck), sta := decide (a = .start), sto := decide (a = .stop), en := true } := by
  cases a <;> rfl

/-- INIT's write sets EN and nothing else (R80 of 40_bitrate.md). -/
@[simp] theorem written_enablePattern (c : Cr) : c.written (enablePattern c) = { c with en := true } := by
  obtain ⟨a, b, d, e, f⟩ := c
  cases a <;> cases b <;> cases d <;> cases e <;> cases f <;> rfl

@[simp] theorem enablePattern_en (c : Cr) : (enablePattern c)[2] = true := by
  obtain ⟨a, b, d, e, f⟩ := c
  cases a <;> cases b <;> cases d <;> cases e <;> cases f <;> rfl

/-- The bus step is one of three things (R42 of 10_state.md). -/
theorem busStep_cases (c : Code) (b : Byte) (s : State) :
    (s.busEnabled = false ∧ busStep c b s = s) ∨
    (∃ p, s.cr.en = true ∧ s.pend = some p ∧ p.act = .stop ∧ busStep c b s = completeStop s) ∨
    (∃ p, s.cr.en = true ∧ s.pend = some p ∧ p.act ≠ .stop ∧ busStep c b s = completeAction p.act c b s) := by
  unfold busStep State.busEnabled
  cases he : s.cr.en <;> cases hp : s.pend with
  | none => simp
  | some p => by_cases hs : p.act = .stop <;> simp [hs]

/-! ## Post-checks -/

theorem check_cases (ph : ErrPhase) (e m : Byte) (s : State) :
    (checkOk e m s = true ∧ check ph e m s = s) ∨ (checkOk e m s = false ∧ check ph e m s = recordMismatch ph e s) := by
  unfold check
  cases checkOk e m s <;> simp

/-! ## Procedures: what one step can do -/

/-- SendStart and SendRepeatedStart (R92, R93). -/
theorem startStep_cases (ph : ErrPhase) (e : Byte) (p : StartPt) (s : State) :
    (p = .issue ∧ startStep ph e p s = .stay (issueIn .started .start s) .delay) ∨
    (p = .timeout ∧ startStep ph e p s = .stay (recordTimeout ph s) (.check false)) ∨
    (∃ c, p = .check c ∧ startStep ph e p s = .ret (check ph e fullMask s) (c && checkOk e fullMask s)) ∨
    ((p = .delay ∨ ∃ k, p = .poll k) ∧ ∃ p', p' ≠ .issue ∧ startStep ph e p s = .stay s p') := by
  cases p with
  | issue => simp [startStep]
  | delay => simp [startStep]
  | timeout => simp [startStep]
  | check c => simp [startStep]
  | poll k =>
    rcases pollRead_cases s.cfg.pollBudget k s.cr.int with ⟨_, h⟩ | ⟨_, _, h⟩ | ⟨_, _, h⟩ <;> simp [startStep, h]

/-- SendByte with its post-check (R90, R95 to R98). -/
theorem sendStep_cases (x : Byte) (ph : ErrPhase) (f : Phase) (e : Option Byte) (p : SendPt) (s : State) :
    (p = .load ∧ sendStep x ph f e p s = .stay { s with dr := x } .issue) ∨
    (p = .issue ∧ sendStep x ph f e p s = .stay (issueIn f .send s) (.poll 0)) ∨
    (p = .waitTimeout ∧ sendStep x ph f e p s = .ret (recordTimeout ph s) false) ∨
    (p = .timeout ∧ e = none ∧ sendStep x ph f e p s = .ret (recordTimeout ph s) false) ∨
    (p = .timeout ∧ e.isSome = true ∧ sendStep x ph f e p s = .stay (recordTimeout ph s) (.check false)) ∨
    (∃ c v, p = .check c ∧ e = some v ∧
      sendStep x ph f e p s = .ret (check ph v fullMask s) (c && checkOk v fullMask s)) ∨
    (∃ c, p = .check c ∧ e = none ∧ sendStep x ph f e p s = .ret s c) ∨
    (∃ k, p = .poll k ∧ e = none ∧ s.cr.int = true ∧ sendStep x ph f e p s = .ret s true) ∨
    ((p = .ready ∨ (∃ k, p = .wait k) ∨ ∃ k, p = .poll k) ∧ ∃ p',
      (p' = .waitTimeout → s.hardened = true) ∧ sendStep x ph f e p s = .stay s p') := by
  cases p with
  | ready => cases hi : s.cr.int <;> simp [sendStep, hi]
  | wait k =>
    rcases pollRead_cases s.cfg.pollBudget k s.cr.int with ⟨_, h⟩ | ⟨_, _, h⟩ | ⟨_, _, h⟩
    · simp [sendStep, h]
    · simp [sendStep, h]
    · cases hh : s.hardened <;> simp [sendStep, h, hh]
  | waitTimeout => simp [sendStep]
  | load => simp [sendStep]
  | issue => simp [sendStep]
  | poll k =>
    rcases pollRead_cases s.cfg.pollBudget k s.cr.int with ⟨hi, h⟩ | ⟨_, _, h⟩ | ⟨_, _, h⟩
    · simp only [sendStep, h]
      cases e <;> simp [hi]
    · simp [sendStep, h]
    · simp [sendStep, h]
  | timeout => cases e <;> simp [sendStep]
  | check c => cases e <;> simp [sendStep]

/-- ReceiveByte (R99). -/
theorem receiveStep_cases (ack : Bool) (p : RecvPt) (s : State) :
    (p = .issue ∧ receiveStep ack p s = .stay (issueIn .data (receiveAction ack) s) (.poll 0)) ∨
    (p = .timeout ∧ receiveStep ack p s = .stay (recordTimeout .receive s) (.check false)) ∨
    (∃ c, p = .check c ∧ receiveStep ack p s =
      .ret (check .receive s.cfg.readDataOk receiveMask s) (c && checkOk s.cfg.readDataOk receiveMask s)) ∨
    ((∃ k, p = .poll k) ∧ ∃ p', p' ≠ .issue ∧ receiveStep ack p s = .stay s p') := by
  cases p with
  | issue => simp [receiveStep]
  | timeout => simp [receiveStep]
  | check c => simp [receiveStep]
  | poll k =>
    rcases pollRead_cases s.cfg.pollBudget k s.cr.int with ⟨_, h⟩ | ⟨_, _, h⟩ | ⟨_, _, h⟩ <;> simp [receiveStep, h]

/-- SendStop (R94). -/
theorem stopStep_cases (p : StopPt) (s : State) :
    (p = .issue ∧ stopStep p s = .stay (issueIn .stopped .stop s) (.spin 0)) ∨
    (p = .timeout ∧ stopStep p s = .ret (recordStopTimeout s) false) ∨
    (∃ k, p = .spin k ∧ s.cr.sto = false ∧ stopStep p s = .ret { s with phase := .idle } true) ∨
    (∃ k, p = .spin k ∧ s.cr.sto = true ∧ s.hardened = false ∧ stopStep p s = .stay s (.spin k)) ∨
    (∃ k, p = .spin k ∧ s.cr.sto = true ∧ s.hardened = true ∧ k + 1 < s.cfg.stopBudget ∧ stopStep p s = .stay s (.spin (k + 1))) ∨
    (∃ k, p = .spin k ∧ s.cr.sto = true ∧ s.hardened = true ∧ s.cfg.stopBudget ≤ k + 1 ∧ stopStep p s = .stay s .timeout) := by
  cases p with
  | issue => simp [stopStep]
  | timeout => simp [stopStep]
  | spin k =>
    cases hh : s.hardened
    · cases hs : s.cr.sto <;> simp [stopStep, hh, hs]
    · rcases pollRead_cases s.cfg.stopBudget k (!s.cr.sto) with ⟨hb, h⟩ | ⟨hb, hk, h⟩ | ⟨hb, hk, h⟩
      · simp at hb
        simp only [hb, Bool.not_false] at h
        simp [stopStep, hh, h, hb]
      · simp at hb
        simp only [hb, Bool.not_true] at h
        simp [stopStep, hh, h, hb, hk]
      · simp at hb
        simp only [hb, Bool.not_true] at h
        simp [stopStep, hh, h, hb, hk]

/-- ToggleEnable (R91). -/
theorem toggleStep_cases (p : TogglePt) (s : State) :
    (p = .off ∧ toggleStep p s = .stay (writeCr 0x00#8 s) .on) ∨
    (p = .on ∧ toggleStep p s = .ret { writeCr 0x04#8 s with phase := .idle } true) := by
  cases p <;> simp [toggleStep]

/-! ## Calls and commands -/

/-- `call` always answers a next state. -/
theorem call_answers {P : Type} (q : Seq) (wrap : P → Pos) (after : State → Bool → State) (r : Ret P) :
    ∃ t, call q wrap after r = .next t := by
  cases r <;> exact ⟨_, rfl⟩

/-- What `call` answers. -/
theorem call_next {P : Type} {q : Seq} {wrap : P → Pos} {after : State → Bool → State} {r : Ret P} {t : State}
    (h : call q wrap after r = .next t) :
    (∃ u p, r = .stay u p ∧ t = goto q (wrap p) u) ∨ (∃ u ok, r = .ret u ok ∧ t = after u ok) := by
  cases r with
  | stay u p => left; exact ⟨u, p, rfl, by simpa [call] using h.symm⟩
  | ret u ok => right; exact ⟨u, ok, rfl, by simpa [call] using h.symm⟩

/-- What `do` answers (R103). -/
theorem doCall_next {P : Type} {q : Seq} {wrap : P → Pos} {after : State → State} {r : Ret P} {t : State}
    (h : doCall q wrap after r = .next t) :
    (∃ u p, r = .stay u p ∧ t = goto q (wrap p) u) ∨
    (∃ u, r = .ret u false ∧ u.hardened = true ∧ t = abort q u) ∨
    (∃ u ok, r = .ret u ok ∧ (u.hardened = false ∨ ok = true) ∧ t = after u) := by
  rcases call_next h with ⟨u, p, hr, ht⟩ | ⟨u, ok, hr, ht⟩
  · exact .inl ⟨u, p, hr, ht⟩
  · cases hh : u.hardened <;> cases ok <;> simp [hh] at ht
    · exact .inr (.inr ⟨u, _, hr, .inl hh, ht⟩)
    · exact .inr (.inr ⟨u, _, hr, .inl hh, ht⟩)
    · exact .inr (.inl ⟨u, hr, hh, ht⟩)
    · exact .inr (.inr ⟨u, _, hr, .inr rfl, ht⟩)

/-- A command with none running: rejected or accepted (R69). -/
theorem command_idle {i : Instr} {first : Pos} {s : State} {body : Seq → Result} (h : s.seq = none) :
    command i first s body = if i.wf then .next (accept i first s) else .next (reject .badArgument s) := by
  simp [command, h]

/-- A running command performs its next step. -/
theorem command_running {i : Instr} {first : Pos} {s : State} {body : Seq → Result} {q : Seq} (h : s.seq = some q) :
    command i first s body = body q := by
  simp [command, h]

end Sys2Proof.Machine
end

