-- ==== Sys2Proof/Laws/Exec.lean ====
section
/-! SUPPORT. The inversion lemma of exec: everything one step of a running command can do, said once. -/

namespace Sys2Proof.Machine

/-- Positions at which a bus action is issued. -/
def isIssue : Pos → Bool
  | .start .issue => true
  | .repeatedStart .issue => true
  | .stop .issue => true
  | .byte .issue => true
  | .writeAddress .issue => true
  | .readAddress .issue => true
  | .subAddress .issue => true
  | .data _ .issue => true
  | .receive _ .issue => true
  | _ => false

/-- Positions at which SendByte loads DR. -/
def isLoad : Pos → Bool
  | .byte .load => true
  | .writeAddress .load => true
  | .readAddress .load => true
  | .subAddress .load => true
  | .data _ .load => true
  | _ => false

/-- Positions at which a completion poll's timeout is recorded. -/
def isTimeout : Pos → Bool
  | .start .timeout => true
  | .repeatedStart .timeout => true
  | .byte .timeout => true
  | .byte .waitTimeout => true
  | .writeAddress .timeout => true
  | .writeAddress .waitTimeout => true
  | .readAddress .timeout => true
  | .readAddress .waitTimeout => true
  | .subAddress .timeout => true
  | .subAddress .waitTimeout => true
  | .data _ .timeout => true
  | .data _ .waitTimeout => true
  | .receive _ .timeout => true
  | _ => false

/-- What one sequencer step at position `p` does to everything but the position and the last write of ACC. -/
inductive SeqEffect (s : State) (p : Pos) : State → Prop where
  | keep (h : p ≠ .toggle .off) : SeqEffect s p s
  | issue (ph : Phase) (a : Action) (h : isIssue p = true) : SeqEffect s p (issueIn ph a s)
  | load (b : Byte) (h : isLoad p = true) : SeqEffect s p { s with dr := b }
  | timeout (ph : ErrPhase) (h : isTimeout p = true) : SeqEffect s p (recordTimeout ph s)
  | check (c : Bool) (ph : ErrPhase) (e m : Byte) (h : checkSite s.cfg p = some (c, ph, e, m)) :
      SeqEffect s p (Machine.check ph e m s)
  | stopTimeout (h : p = .stop .timeout) : SeqEffect s p (recordStopTimeout s)
  | stopDone (k : Nat) (h : p = .stop (.spin k)) (hs : s.cr.sto = false) : SeqEffect s p { s with phase := .idle }
  | toggleOff (h : p = .toggle .off) : SeqEffect s p (writeCr 0x00#8 s)
  | toggleOn (h : p = .toggle .on) : SeqEffect s p { writeCr 0x04#8 s with phase := .idle }
  | enable (h : p = .enable) : SeqEffect s p (writeCr (enablePattern s.cr) s)
  | setPs (k : Nat) (h : p = .setPs) : SeqEffect s p (setPrescaler k s)
  | setBr (k : Nat) (h : p = .setBr) : SeqEffect s p (setDivider k s)
  | store (i : Nat) (h : p = .storeBuf i) : SeqEffect s p { s with buf := s.buf.write i s.dr }

/-- The last write a step makes to ACC: none, VALUE, or ABORTED in HARDENED mode. -/
inductive AccTail (u : State) : Acc → Prop where
  | keep : AccTail u u.acc
  | value (v : Byte) : AccTail u { u.acc with value := v }
  | abort (h : u.hardened = true) : AccTail u { u.acc with aborted := true }

/-- The state after an effect `u`, at a new position. -/
def landed (u : State) (a : Acc) (q : Seq) (p : Pos) (hd : Byte) : State :=
  { u with acc := a, seq := some { cur := q.cur, pos := p, held := hd } }

theorem landed_goto (u : State) (q : Seq) (p : Pos) : goto q p u = landed u u.acc q p q.held := rfl
theorem landed_abort (u : State) (q : Seq) :
    abort q u = landed u { u.acc with aborted := true } q (.stop .issue) q.held := rfl

/-- What a step of a running command leaves: a landing after one effect. -/
def Landing (s : State) (q : Seq) (t : State) : Prop :=
  ∃ u a p hd, SeqEffect s q.pos u ∧ AccTail u a ∧ t = landed u a q p hd

theorem Landing.goto {s u : State} {q : Seq} (h : SeqEffect s q.pos u) (p : Pos) : Landing s q (goto q p u) :=
  ⟨u, u.acc, p, q.held, h, .keep, rfl⟩

/-- A procedure's step, said by its effect alone: where it stays and where it returns. -/
def EffectOf {P : Type} (s : State) (p : Pos) : Ret P → Prop
  | .stay u _ => SeqEffect s p u
  | .ret u _ => SeqEffect s p u

theorem call_landing {P : Type} {s t : State} {q : Seq} {wrap : P → Pos} {after : State → Bool → State} {r : Ret P}
    (h : call q wrap after r = .next t) (he : EffectOf s q.pos r)
    (ha : ∀ u ok, SeqEffect s q.pos u → Landing s q (after u ok)) : Landing s q t := by
  rcases call_next h with ⟨u, p, rfl, rfl⟩ | ⟨u, ok, rfl, rfl⟩
  · exact Landing.goto he _
  · exact ha u ok he

theorem doCall_landing {P : Type} {s t : State} {q : Seq} {wrap : P → Pos} {after : State → State} {r : Ret P}
    (h : doCall q wrap after r = .next t) (he : EffectOf s q.pos r)
    (ha : ∀ u, SeqEffect s q.pos u → Landing s q (after u)) : Landing s q t := by
  rcases doCall_next h with ⟨u, p, rfl, rfl⟩ | ⟨u, rfl, hh, rfl⟩ | ⟨u, ok, rfl, -, rfl⟩
  · exact Landing.goto he _
  · exact ⟨u, _, _, _, he, .abort hh, rfl⟩
  · exact ha u he

theorem startStep_effect {s : State} {pos : Pos} {ph : ErrPhase} {e : Byte} (p : StartPt)
    (hk : pos ≠ .toggle .off)
    (hi : p = .issue → isIssue pos = true) (ht : p = .timeout → isTimeout pos = true)
    (hc : ∀ c, p = .check c → checkSite s.cfg pos = some (c, ph, e, fullMask)) : EffectOf s pos (startStep ph e p s) := by
  rcases startStep_cases ph e p s with ⟨rfl, h⟩ | ⟨rfl, h⟩ | ⟨c, rfl, h⟩ | ⟨-, p', -, h⟩ <;> rw [h]
  · exact .issue _ _ (hi rfl)
  · exact .timeout _ (ht rfl)
  · exact .check _ _ _ _ (hc _ rfl)
  · exact .keep hk

theorem sendStep_effect {s : State} {pos : Pos} {x : Byte} {ph : ErrPhase} {f : Phase} {e : Option Byte} (p : SendPt)
    (hk : pos ≠ .toggle .off)
    (hi : p = .issue → isIssue pos = true) (hl : p = .load → isLoad pos = true)
    (ht : p = .timeout ∨ p = .waitTimeout → isTimeout pos = true)
    (hc : ∀ c v, p = .check c → e = some v → checkSite s.cfg pos = some (c, ph, v, fullMask)) :
    EffectOf s pos (sendStep x ph f e p s) := by
  rcases sendStep_cases x ph f e p s with ⟨rfl, h⟩ | ⟨rfl, h⟩ | ⟨rfl, h⟩ | ⟨rfl, -, h⟩ | ⟨rfl, -, h⟩ | ⟨c, v, rfl, he, h⟩ |
    ⟨c, rfl, -, h⟩ | ⟨k, rfl, -, -, h⟩ | ⟨-, p', -, h⟩ <;> rw [h]
  · exact .load _ (hl rfl)
  · exact .issue _ _ (hi rfl)
  · exact .timeout _ (ht (.inr rfl))
  · exact .timeout _ (ht (.inl rfl))
  · exact .timeout _ (ht (.inl rfl))
  · exact .check _ _ _ _ (hc _ _ rfl he)
  · exact .keep hk
  · exact .keep hk
  · exact .keep hk

theorem receiveStep_effect {s : State} {pos : Pos} {ack : Bool} (p : RecvPt)
    (hk : pos ≠ .toggle .off)
    (hi : p = .issue → isIssue pos = true) (ht : p = .timeout → isTimeout pos = true)
    (hc : ∀ c, p = .check c → checkSite s.cfg pos = some (c, .receive, s.cfg.readDataOk, receiveMask)) :
    EffectOf s pos (receiveStep ack p s) := by
  rcases receiveStep_cases ack p s with ⟨rfl, h⟩ | ⟨rfl, h⟩ | ⟨c, rfl, h⟩ | ⟨-, p', -, h⟩ <;> rw [h]
  · exact .issue _ _ (hi rfl)
  · exact .timeout _ (ht rfl)
  · exact .check _ _ _ _ (hc _ rfl)
  · exact .keep hk

theorem stopStep_effect {s : State} (p : StopPt) : EffectOf s (.stop p) (stopStep p s) := by
  rcases stopStep_cases p s with ⟨rfl, h⟩ | ⟨rfl, h⟩ | ⟨k, rfl, hs, h⟩ | ⟨k, rfl, -, -, h⟩ | ⟨k, rfl, -, -, -, h⟩ |
    ⟨k, rfl, -, -, -, h⟩ <;> rw [h]
  · exact .issue _ _ rfl
  · exact .stopTimeout rfl
  · exact .stopDone k rfl hs
  · exact .keep (by simp)
  · exact .keep (by simp)
  · exact .keep (by simp)

theorem toggleStep_effect {s : State} (p : TogglePt) : EffectOf s (.toggle p) (toggleStep p s) := by
  rcases toggleStep_cases p s with ⟨rfl, h⟩ | ⟨rfl, h⟩ <;> rw [h]
  · exact .toggleOff rfl
  · exact .toggleOn rfl

/-! `finishOf`: what the finish of any command leaves. -/

@[simp] theorem finishOf_cfg (i : Instr) (s : State) : (finishOf i s).cfg = s.cfg := by unfold finishOf; split <;> rfl
@[simp] theorem finishOf_cr (i : Instr) (s : State) : (finishOf i s).cr = s.cr := by unfold finishOf; split <;> rfl
@[simp] theorem finishOf_sr (i : Instr) (s : State) : (finishOf i s).sr = s.sr := by unfold finishOf; split <;> rfl
@[simp] theorem finishOf_dr (i : Instr) (s : State) : (finishOf i s).dr = s.dr := by unfold finishOf; split <;> rfl
@[simp] theorem finishOf_br (i : Instr) (s : State) : (finishOf i s).br = s.br := by unfold finishOf; split <;> rfl
@[simp] theorem finishOf_cmd (i : Instr) (s : State) : (finishOf i s).cmd = s.cmd := by unfold finishOf; split <;> rfl
@[simp] theorem finishOf_latch (i : Instr) (s : State) : (finishOf i s).latch = s.latch := by unfold finishOf; split <;> rfl
@[simp] theorem finishOf_overrun (i : Instr) (s : State) : (finishOf i s).overrun = s.overrun := by unfold finishOf; split <;> rfl
@[simp] theorem finishOf_buf (i : Instr) (s : State) : (finishOf i s).buf = s.buf := by unfold finishOf; split <;> rfl
@[simp] theorem finishOf_pend (i : Instr) (s : State) : (finishOf i s).pend = s.pend := by unfold finishOf; split <;> rfl
@[simp] theorem finishOf_acc (i : Instr) (s : State) : (finishOf i s).acc = s.acc := by unfold finishOf; split <;> rfl
@[simp] theorem finishOf_log (i : Instr) (s : State) : (finishOf i s).log = s.log := by unfold finishOf; split <;> rfl
@[simp] theorem finishOf_busev (i : Instr) (s : State) : (finishOf i s).busev = s.busev := by unfold finishOf; split <;> rfl
@[simp] theorem finishOf_hostFaults (i : Instr) (s : State) : (finishOf i s).hostFaults = s.hostFaults := by unfold finishOf; split <;> rfl
@[simp] theorem finishOf_hostData (i : Instr) (s : State) : (finishOf i s).hostData = s.hostData := by unfold finishOf; split <;> rfl
@[simp] theorem finishOf_inputs (i : Instr) (s : State) : (finishOf i s).inputs = s.inputs := by unfold finishOf; split <;> rfl
@[simp] theorem finishOf_tick (i : Instr) (s : State) : (finishOf i s).tick = s.tick := by unfold finishOf; split <;> rfl
@[simp] theorem finishOf_result (i : Instr) (s : State) : (finishOf i s).result = pack s.acc := by unfold finishOf; split <;> rfl
@[simp] theorem finishOf_seq (i : Instr) (s : State) : (finishOf i s).seq = none := by unfold finishOf; split <;> rfl
@[simp] theorem finishOf_phase (i : Instr) (s : State) : (finishOf i s).phase = if isComposite i then .idle else s.phase := by
  unfold finishOf; split <;> rfl

/-- Everything one step of a running command can do: finish, or one effect of its position and a landing at another position of the
same CUR. -/
theorem exec_running {i : Instr} {s t : State} {q : Seq} (h : exec i s = .next t) (hq : s.seq = some q) :
    (q.pos = .finish ∧ t = finishOf i s) ∨ Landing s q t := by
  obtain ⟨cur, pos, held⟩ := q
  have fin : ∀ {u : State}, (Host.Outcome.next u : Result) = .next t → t = u := fun h => by injection h with h; exact h.symm
  cases i <;>
    simp only [exec, execSetBitrate, execInit, execSendStart, execSendRepeatedStart, execSendStop, execSendByte,
      execSendWriteAddress, execSendReadAddress, execSendData, execReceiveByte, execGetReceivedByte, execGetStatus,
      execReadRegister, execReadRegisters, execWriteRegister, execWriteRegisters, command_running hq] at h <;>
    cases pos <;> simp only [reduceCtorEq] at h
  all_goals try exact .inl ⟨rfl, fin h⟩
  all_goals right
  all_goals first
    | exact (call_landing h (startStep_effect _ (by simp) (fun h => by subst h; rfl) (fun h => by subst h; rfl) (fun c h => by subst h; rfl))
        (fun u ok he => Landing.goto he _))
    | exact (call_landing h (sendStep_effect _ (by simp) (fun h => by subst h; rfl) (fun h => by subst h; rfl)
        (fun h => by rcases h with rfl | rfl <;> rfl) (fun c v h hv => by subst h; cases hv; rfl))
        (fun u ok he => Landing.goto he _))
    | exact (call_landing h (receiveStep_effect _ (by simp) (fun h => by subst h; rfl) (fun h => by subst h; rfl) (fun c h => by subst h; rfl))
        (fun u ok he => Landing.goto he _))
    | exact (call_landing h (stopStep_effect _) (fun u ok he => Landing.goto he _))
    | exact (call_landing h (toggleStep_effect _) (fun u ok he => Landing.goto he _))
    | exact (call_landing h (toggleStep_effect _) (fun u ok he => ⟨u, _, _, _, he, .value _, rfl⟩))
    | exact (doCall_landing h (startStep_effect _ (by simp) (fun h => by subst h; rfl) (fun h => by subst h; rfl) (fun c h => by subst h; rfl))
        (fun u he => Landing.goto he _))
    | exact (doCall_landing h (sendStep_effect _ (by simp) (fun h => by subst h; rfl) (fun h => by subst h; rfl)
        (fun h => by rcases h with rfl | rfl <;> rfl) (fun c v h hv => by subst h; cases hv; rfl))
        (fun u he => Landing.goto he _))
    | exact (doCall_landing h (sendStep_effect _ (by simp) (fun h => by subst h; rfl) (fun h => by subst h; rfl)
        (fun h => by rcases h with rfl | rfl <;> rfl) (fun c v h hv => by subst h; cases hv; rfl))
        (fun u he => ⟨u, _, _, _, he, .value _, rfl⟩))
    | exact (doCall_landing h (receiveStep_effect _ (by simp) (fun h => by subst h; rfl) (fun h => by subst h; rfl) (fun c h => by subst h; rfl))
        (fun u he => Landing.goto he _))
    | skip
  case setBitrate.setPs => exact ⟨_, _, _, _, .setPs _ rfl, .keep, fin h⟩
  case setBitrate.setBr => exact ⟨_, _, _, _, .setBr _ rfl, .value _, fin h⟩
  case init.setPs => exact ⟨_, _, _, _, .setPs _ rfl, .keep, fin h⟩
  case init.setBr => exact ⟨_, _, _, _, .setBr _ rfl, .keep, fin h⟩
  case init.enable => exact ⟨_, _, _, _, .enable rfl, .keep, fin h⟩
  case sendByte.byte =>
    exact call_landing h (sendStep_effect _ (by simp) (fun h => by subst h; rfl) (fun h => by subst h; rfl)
      (fun h => by rcases h with rfl | rfl <;> rfl) (fun c v _ hv => by cases hv)) (fun u ok he => Landing.goto he _)
  case getReceivedByte.readDr => exact ⟨_, _, _, _, .keep (by simp), .value _, fin h⟩
  case getStatus.readSr => exact ⟨_, _, _, _, .keep (by simp), .value _, fin h⟩
  case readRegister.readDr => exact ⟨_, _, _, _, .keep (by simp), .keep, fin h⟩
  case readRegisters.storeBuf => exact ⟨_, _, _, _, .store _ rfl, .value _, fin h⟩
  case writeRegisters.loadBuf i =>
    cases hb : s.buf.read i with
    | none => simp [hb] at h
    | some b =>
      simp only [hb] at h
      exact ⟨_, _, _, _, .keep (by simp), .keep, fin h⟩

/-- A command with none running: rejected or accepted (R69 of 30_encoding.md). -/
theorem exec_idle {i : Instr} {s : State} (h : s.seq = none) :
    exec i s = if i.wf then .next (accept i (firstPos i) s) else .next (reject .badArgument s) := by
  cases i <;>
    simp only [exec, execSetBitrate, execInit, execSendStart, execSendRepeatedStart, execSendStop, execSendByte,
      execSendWriteAddress, execSendReadAddress, execSendData, execReceiveByte, execGetReceivedByte, execGetStatus,
      execReadRegister, execReadRegisters, execWriteRegister, execWriteRegisters, command_idle h, firstPos]
  case readRegisters a r n =>
    by_cases hn : n = 0#8
    · subst hn; rfl
    · have : count n ≠ 0 := fun hc => hn (BitVec.eq_of_toNat_eq (by simpa [count] using hc))
      simp [hn, this]

/-- Everything exec answers with a next state can be: acceptance, rejection, finish, or one effect and a landing. -/
theorem exec_cases {i : Instr} {s t : State} (h : exec i s = .next t) :
    (s.seq = none ∧ i.wf = true ∧ t = accept i (firstPos i) s) ∨
    (s.seq = none ∧ i.wf = false ∧ t = reject .badArgument s) ∨
    (∃ q, s.seq = some q ∧ q.pos = .finish ∧ t = finishOf i s) ∨ (∃ q, s.seq = some q ∧ Landing s q t) := by
  cases hs : s.seq with
  | none =>
    rw [exec_idle hs] at h
    cases hw : i.wf <;> simp [hw] at h <;> simp [h]
  | some q =>
    rcases exec_running h hs with ⟨a, b⟩ | hl
    · exact .inr (.inr (.inl ⟨q, rfl, a, b⟩))
    · exact .inr (.inr (.inr ⟨q, rfl, hl⟩))

end Sys2Proof.Machine
end

