-- ==== Sys2Proof/Laws/PerInstr.lean ====
section
/-! SUPPORT. Laws made per command: each command's word carries the opcode of its row in R67 (30_encoding.md), whatever its operands. -/

namespace Sys2Proof.Laws

/-- OP of each command, from the opcode map of R67. -/
def opcode : Instr → Byte
  | .setBitrate _ => 0x01#8
  | .init => 0x02#8
  | .sendStart => 0x10#8
  | .sendRepeatedStart => 0x11#8
  | .sendStop => 0x12#8
  | .sendByte _ => 0x13#8
  | .sendWriteAddress _ => 0x14#8
  | .sendReadAddress _ => 0x15#8
  | .sendData _ => 0x16#8
  | .receiveByte _ => 0x17#8
  | .getReceivedByte => 0x18#8
  | .getStatus => 0x19#8
  | .readRegister _ _ => 0x20#8
  | .readRegisters _ _ _ => 0x21#8
  | .writeRegister _ _ _ => 0x22#8
  | .writeRegisters _ _ _ => 0x23#8

/-- The word of the command has the command's opcode in OP, bits 31:24 (R65). -/
def OpcodeField.Statement (i : Instr) : Prop := opField (encode i) = opcode i

theorem OpcodeField.of_toNat {w : Word} {op : Byte} {low : Nat} (h : w.toNat = op.toNat * 2 ^ 24 + low) (hl : low < 2 ^ 24) :
    opField w = op := by
  have := op.isLt
  apply BitVec.eq_of_toNat_eq
  rw [opField_toNat, h]
  omega

theorem OpcodeField.setBitrate (khz : BitVec 16) : OpcodeField.Statement (.setBitrate khz) :=
  of_toNat (formatK_toNat _ khz) (by omega)
theorem OpcodeField.init : OpcodeField.Statement (.init) := rfl
theorem OpcodeField.sendStart : OpcodeField.Statement (.sendStart) := rfl
theorem OpcodeField.sendRepeatedStart : OpcodeField.Statement (.sendRepeatedStart) := rfl
theorem OpcodeField.sendStop : OpcodeField.Statement (.sendStop) := rfl
theorem OpcodeField.sendByte (b : Byte) : OpcodeField.Statement (.sendByte b) :=
  of_toNat (formatB_toNat _ b) (by omega)
theorem OpcodeField.sendWriteAddress (a : Addr7) : OpcodeField.Statement (.sendWriteAddress a) :=
  of_toNat (formatA_toNat _ a) (by omega)
theorem OpcodeField.sendReadAddress (a : Addr7) : OpcodeField.Statement (.sendReadAddress a) :=
  of_toNat (formatA_toNat _ a) (by omega)
theorem OpcodeField.sendData (b : Byte) : OpcodeField.Statement (.sendData b) :=
  of_toNat (formatB_toNat _ b) (by omega)
theorem OpcodeField.receiveByte (ack : Bool) : OpcodeField.Statement (.receiveByte ack) :=
  of_toNat (formatR_toNat _ ack) (by cases ack <;> decide)
theorem OpcodeField.getReceivedByte : OpcodeField.Statement (.getReceivedByte) := rfl
theorem OpcodeField.getStatus : OpcodeField.Statement (.getStatus) := rfl
theorem OpcodeField.readRegister (a : Addr7) (r : Byte) : OpcodeField.Statement (.readRegister a r) :=
  of_toNat (low := a.toNat * 2 ^ 16 + r.toNat * 2 ^ 8) (by rw [← Nat.add_assoc]; exact formatT3_toNat _ a r) (by omega)
theorem OpcodeField.readRegisters (a : Addr7) (r : Byte) (n : Byte) : OpcodeField.Statement (.readRegisters a r n) :=
  of_toNat (low := a.toNat * 2 ^ 16 + r.toNat * 2 ^ 8 + n.toNat)
    (by rw [← Nat.add_assoc, ← Nat.add_assoc]; exact formatT4_toNat _ a r n) (by omega)
theorem OpcodeField.writeRegister (a : Addr7) (r : Byte) (b : Byte) : OpcodeField.Statement (.writeRegister a r b) :=
  of_toNat (low := a.toNat * 2 ^ 16 + r.toNat * 2 ^ 8 + b.toNat)
    (by rw [← Nat.add_assoc, ← Nat.add_assoc]; exact formatT4_toNat _ a r b) (by omega)
theorem OpcodeField.writeRegisters (a : Addr7) (r : Byte) (n : Byte) : OpcodeField.Statement (.writeRegisters a r n) :=
  of_toNat (low := a.toNat * 2 ^ 16 + r.toNat * 2 ^ 8 + n.toNat)
    (by rw [← Nat.add_assoc, ← Nat.add_assoc]; exact formatT4_toNat _ a r n) (by omega)

end Sys2Proof.Laws
end

