-- ==== Sys2Proof/Laws/Position.lean ====
section
/-! SUPPORT. Where the sequencer stands after one step of a running command: at a position of the same command, at a HARDENED step only
in HARDENED mode, between the toggle's writes only just after the first of them. -/

namespace Sys2Proof.Machine

/-- What the position after a step says of the position before it. -/
def Follows (i : Instr) (s : State) (q : Seq) (t : State) : Prop :=
  ∃ q', t.seq = some q' ∧ q'.cur = q.cur ∧ (posFits i q.pos = true → posFits i q'.pos = true) ∧
    (hardenedOnly q'.pos = true → s.hardened = true) ∧ (q'.pos = .toggle .on → q.pos = .toggle .off)

theorem sendStep_stay {x : Byte} {ph : ErrPhase} {f : Phase} {e : Option Byte} {p p' : SendPt} {s u : State}
    (h : sendStep x ph f e p s = .stay u p') : (p' = .waitTimeout → s.hardened = true) ∧ (e = none → ∀ c, p' ≠ .check c) := by
  cases p <;> simp only [sendStep] at h
  all_goals repeat' split at h
  all_goals try simp at h
  all_goals try obtain ⟨rfl, rfl⟩ := h
  all_goals first
    | (simp_all; done)
    | (refine ⟨by simp, ?_⟩; rintro rfl; simp_all)

theorem stopStep_stay {p p' : StopPt} {s u : State} (h : stopStep p s = .stay u p') : p' = .timeout → s.hardened = true := by
  cases p <;> simp only [stopStep] at h
  all_goals repeat' split at h
  all_goals try simp at h
  all_goals try obtain ⟨rfl, rfl⟩ := h
  all_goals simp_all

theorem toggleStep_stay {p p' : TogglePt} {s u : State} (h : toggleStep p s = .stay u p') : p = .off ∧ p' = .on := by
  cases p <;> simp [toggleStep] at h
  simp [h]

theorem follows_goto {i : Instr} {s u : State} {q : Seq} {p : Pos} {hd : Byte}
    (h1 : posFits i q.pos = true → posFits i p = true) (h2 : hardenedOnly p = true → s.hardened = true)
    (h3 : p = .toggle .on → q.pos = .toggle .off) : Follows i s q (goto { q with held := hd } p u) :=
  ⟨_, rfl, rfl, h1, h2, h3⟩

theorem call_follows {P : Type} {i : Instr} {s t : State} {q : Seq} {wrap : P → Pos} {after : State → Bool → State} {r : Ret P}
    (h : call q wrap after r = .next t) (hs : ∀ u p, r = .stay u p → Follows i s q (goto q (wrap p) u))
    (ha : ∀ u ok, r = .ret u ok → Follows i s q (after u ok)) : Follows i s q t := by
  rcases call_next h with ⟨u, p, hr, rfl⟩ | ⟨u, ok, hr, rfl⟩
  · exact hs u p hr
  · exact ha u ok hr

theorem doCall_follows {P : Type} {i : Instr} {s t : State} {q : Seq} {wrap : P → Pos} {after : State → State} {r : Ret P}
    (h : doCall q wrap after r = .next t) (hs : ∀ u p, r = .stay u p → Follows i s q (goto q (wrap p) u))
    (hf : posFits i q.pos = true → posFits i (.stop .issue) = true) (ha : ∀ u, Follows i s q (after u)) : Follows i s q t := by
  rcases doCall_next h with ⟨u, p, hr, rfl⟩ | ⟨u, hr, hh, rfl⟩ | ⟨u, ok, hr, -, rfl⟩
  · exact hs u p hr
  · exact ⟨_, rfl, rfl, hf, by simp [hardenedOnly], by simp⟩
  · exact ha u

theorem count_pos {n : Byte} : 0 < count n ↔ n ≠ 0#8 := by
  unfold count
  rw [Nat.pos_iff_ne_zero]
  exact not_congr ⟨fun h => BitVec.eq_of_toNat_eq h, fun h => by rw [h]; rfl⟩

/-- Where a burst read goes after its read address (R110 of 42_transactions.md). -/
theorem readNext_zero (n : Byte) : readNext (count n) 0 = if n = 0#8 then .stop .issue else .receive 0 .issue := by
  unfold readNext
  by_cases h : n = 0#8
  · rw [if_pos h, if_neg (fun hc => count_pos.mp hc h)]
  · rw [if_neg h, if_pos (count_pos.mpr h)]

/-- Where a burst write goes after its sub-address (R112 of 42_transactions.md). -/
theorem writeNext_zero (n : Byte) : writeNext (count n) 0 = if n = 0#8 then .stop .issue else .loadBuf 0 := by
  unfold writeNext
  by_cases h : n = 0#8
  · rw [if_pos h, if_neg (fun hc => count_pos.mp hc h)]
  · rw [if_neg h, if_pos (count_pos.mpr h)]

theorem readNext_fits {a : Addr7} {r n : Byte} {k : Nat} : posFits (.readRegisters a r n) (readNext (count n) k) = true := by
  unfold readNext count; split <;> simp_all [posFits, posReading, posOpening]

theorem writeNext_fits {a : Addr7} {r n : Byte} {k : Nat} : posFits (.writeRegisters a r n) (writeNext (count n) k) = true := by
  unfold writeNext count; split <;> simp_all [posFits, posOpening]

theorem readNext_plain (n k : Nat) : hardenedOnly (readNext n k) = false ∧ readNext n k ≠ .toggle .on := by
  unfold readNext; split <;> simp [hardenedOnly]

theorem writeNext_plain (n k : Nat) : hardenedOnly (writeNext n k) = false ∧ writeNext n k ≠ .toggle .on := by
  unfold writeNext; split <;> simp [hardenedOnly]

/-- The first step of a command is one of its own positions, and no step of the toggle or of HARDENED mode. -/
theorem firstPos_fits (i : Instr) :
    posFits i (firstPos i) = true ∧ hardenedOnly (firstPos i) = false ∧ firstPos i ≠ .toggle .on := by
  cases i
  case readRegisters a r n => by_cases hn : n = 0#8 <;> simp [firstPos, posFits, hardenedOnly, posReading, posOpening, hn]
  all_goals simp [firstPos, posFits, hardenedOnly, posOpening, posReading]

/-- A step of a running command that is not its finish goes on to a position that follows. -/
theorem exec_follows {i : Instr} {s t : State} {q : Seq} (h : exec i s = .next t) (hq : s.seq = some q) (hf : q.pos ≠ .finish) :
    Follows i s q t := by
  obtain ⟨cur, pos, held⟩ := q
  have fin : ∀ {u : State}, (Host.Outcome.next u : Result) = .next t → t = u := fun h => by injection h with h; exact h.symm
  have no : ∀ {p : Prop} {b : Bool}, b = false → b = true → p := fun h h' => by rw [h] at h'; cases h'
  cases i <;>
    simp only [exec, execSetBitrate, execInit, execSendStart, execSendRepeatedStart, execSendStop, execSendByte,
      execSendWriteAddress, execSendReadAddress, execSendData, execReceiveByte, execGetReceivedByte, execGetStatus,
      execReadRegister, execReadRegisters, execWriteRegister, execWriteRegisters, command_running hq] at h <;>
    cases pos <;> simp only [reduceCtorEq] at h
  all_goals try exact absurd rfl hf
  all_goals first
    | (refine call_follows h (fun u p hr => follows_goto ?_ ?_ ?_) (fun u ok hr => follows_goto ?_ ?_ ?_))
    | (refine doCall_follows h (fun u p hr => follows_goto ?_ ?_ ?_) ?_ (fun u => follows_goto ?_ ?_ ?_))
    | (rw [fin h]; refine follows_goto ?_ ?_ ?_)
    | skip
  all_goals try exact (fun _ => rfl)
  all_goals try exact (no rfl)
  all_goals try exact (fun _ => readNext_fits)
  all_goals try exact (fun _ => writeNext_fits)
  all_goals try exact (no (readNext_plain _ _).1)
  all_goals try exact (no (writeNext_plain _ _).1)
  all_goals try exact (fun hh => ((readNext_plain _ _).2 hh).elim)
  all_goals try exact (fun hh => ((writeNext_plain _ _).2 hh).elim)
  all_goals try (intro hh; cases hh; done)
  all_goals try exact id
  all_goals try
    (intro hh; cases p <;> first | (exact no rfl hh) | (exact (sendStep_stay hr).1 rfl) | (exact stopStep_stay hr rfl))
  case sendByte.byte.refine_1 => intro _; cases p <;> first | rfl | exact ((sendStep_stay hr).2 rfl _ rfl).elim
  all_goals try (exact fun hh => (toggleStep_stay hr).1 ▸ rfl)
  case writeRegisters.loadBuf =>
    split at h
    · rw [fin h]; exact follows_goto id (no rfl) (by simp)
    · cases h

end Sys2Proof.Machine
end

