-- ==== Sys2Proof/Laws/Step.lean ====
section
/-! SUPPORT. The inversion lemma of step: everything one transition of the machine can be, said once, and the inversion of a host access
it rests on. -/

namespace Sys2Proof.Machine

/-- What a host access can leave. A read changes the model's own fields only; a write changes the latch, OVERRUN or one byte of BUF, or it
submits. -/
inductive HostEffect (a : HostAccess) (u : State) : State → Prop where
  | keep : HostEffect a u u
  | read (d : Word) (f : List HostFault) (k : Nat) (h : u.hostFaults <+: f) :
      HostEffect a u { u with hostData := d, hostFaults := f, tick := k }
  | fault (f : HostFault) : HostEffect a u (recordHostFault f u)
  | latch (l : Word) : HostEffect a u { u with latch := l }
  | clear (d : Word) (h : a = .write (u.cfg.hostBase + 8) 1 d) :
      HostEffect a u { u with overrun := u.overrun && !d[1] }
  | buffer (i : Nat) (b : Byte) (f : List HostFault) (k : Nat) (hi : i < 256) (h : u.hostFaults <+: f) :
      HostEffect a u { u with buf := u.buf.write i b, hostFaults := f, tick := k }
  | drop (w : Word) (h : u.busy = true) :
      HostEffect a u { u with cmd := w, latch := w, overrun := true, hostFaults := u.hostFaults ++ [.submitWhileBusy] }
  | illegal (w : Word) (h : u.busy = false) :
      HostEffect a u (reject .illegalEncoding { u with cmd := w, latch := w })
  | accept (w : Word) (i : Instr) (h : u.busy = false) (hd : decode w = .ok i) (hw : i.wf = true) :
      HostEffect a u (accept i (firstPos i) { u with cmd := w, latch := w })
  | badArgument (w : Word) (i : Instr) (h : u.busy = false) (hd : decode w = .ok i) (hw : i.wf = false) :
      HostEffect a u (reject .badArgument { u with cmd := w, latch := w })

theorem windowOffset_some {p : Params} {addr off : Nat} (h : windowOffset p addr = some off) :
    addr = p.hostBase + off ∧ off < 512 := by
  unfold windowOffset windowSize at h
  split at h
  · simp at h; omega
  · simp at h

theorem windowOffset_in {p : Params} {off : Nat} (h : off < 512) : windowOffset p (p.hostBase + off) = some off := by
  unfold windowOffset windowSize
  rw [if_pos (by omega)]
  simp

theorem submit_effect {a : HostAccess} {w : Word} {u t : State} (h : submit w u = .next t) : HostEffect a u t := by
  unfold submit at h
  cases hb : u.busy
  · have hb' : State.busy { u with cmd := w, latch := w } = false := hb
    simp only [hb', Bool.false_eq_true, if_false] at h
    cases hd : decode w with
    | error e =>
      simp only [hd] at h
      injection h with h; subst h
      exact .illegal w hb
    | ok i =>
      simp only [hd] at h
      have hn : State.seq { u with cmd := w, latch := w } = none := by simpa [State.busy] using hb
      rw [exec_idle hn] at h
      cases hw : i.wf <;> simp only [hw, if_true, Bool.false_eq_true, if_false] at h <;> injection h with h <;> subst h
      · exact .badArgument w i hb hd hw
      · exact .accept w i hb hd hw
  · have hb' : State.busy { u with cmd := w, latch := w } = true := hb
    simp only [hb', if_true] at h
    injection h with h; subst h
    exact .drop w hb

/-- Everything a host access can leave. -/
theorem hostAccess_effect {a : HostAccess} {u t : State} (h : hostAccess a u = .next t) : HostEffect a u t := by
  have fin : ∀ {v : State}, (Host.Outcome.next v : Result) = .next t → t = v := fun h => by injection h with h; exact h.symm
  cases a with
  | read addr size =>
    simp only [hostAccess] at h
    split at h
    · cases h
    · unfold hostRead8 hostRead32 at h
      repeat' split at h
      all_goals first
        | (rw [fin h]; exact .read _ _ _ (List.prefix_refl _))
        | (rw [fin h]; exact .read _ _ _ (List.prefix_append _ _))
        | cases h
  | write addr size data =>
    simp only [hostAccess] at h
    split at h
    · cases h
    · rename_i off ho
      obtain ⟨rfl, hlt⟩ := windowOffset_some ho
      split at h
      · rename_i hs
        subst hs
        unfold hostWrite8 at h
        repeat' split at h
        · rw [fin h]; exact .latch _
        · exact submit_effect h
        · rw [fin h]; exact .keep
        · rename_i h8; subst h8
          rw [fin h]
          have : (byteOfWord data 0)[1] = data[1] := by simp [byteOfWord]
          rw [this]
          exact .clear data rfl
        · rw [fin h]; exact .keep
        · rw [fin h]
          unfold hostWriteBuf
          split
          · split
            · exact .buffer _ _ _ _ (by omega) (List.prefix_append _ _)
            · exact .read _ _ _ (List.prefix_append _ _)
          · exact .buffer _ _ _ _ (by omega) (List.prefix_refl _)
      · split at h
        · unfold hostWrite32 at h
          repeat' split at h
          · exact submit_effect h
          · rw [fin h]; exact .keep
          · rw [fin h]; exact .fault _
        · rw [fin h]; exact .fault _

/-- What one transition of the machine does to the state `u`, which is the state before it with the move taken off the inputs. -/
inductive StepEffect (s u : State) : State → Prop where
  /-- No command runs: the sequencer waits. -/
  | wait (h : s.seq = none) : StepEffect s u u
  | exec (q : Seq) (i : Instr) (t : State) (hq : s.seq = some q) (hd : decode q.cur = .ok i)
      (h : Machine.exec i u = .next t) : StepEffect s u t
  | bus (c : Code) (b : Byte) (h : ∀ rest, s.inputs ≠ .sequencer :: rest) : StepEffect s u (busStep c b u)
  | host (a : HostAccess) (rest : List Move) (t : State) (hi : s.inputs = .host a :: rest) (h : HostEffect a u t) :
      StepEffect s u t
  | reset (rest : List Move) (h : s.inputs = .reset :: rest) : StepEffect s u u.resetBlock

theorem sequencerTurn_effect {s u t : State} (hu : u.seq = s.seq) (h : sequencerTurn u = .next t) : StepEffect s u t := by
  unfold sequencerTurn at h
  cases hq : u.seq with
  | none =>
    simp only [hq] at h
    injection h with h; subst h
    exact .wait (hu ▸ hq)
  | some q =>
    simp only [hq] at h
    cases hd : decode q.cur with
    | error e => simp [hd] at h
    | ok i => simp only [hd] at h; exact .exec q i _ (hu ▸ hq) hd h

/-- Everything a step can do. -/
theorem step_effect {s t : State} (h : step s = .next t) :
    Params.wf s.cfg = true ∧ ∃ ms k, StepEffect s { s with inputs := ms, tick := k } t := by
  unfold step at h
  cases hw : Params.wf s.cfg
  · simp [hw] at h
  · refine ⟨rfl, ?_⟩
    simp only [hw, if_true] at h
    unfold turn at h
    cases hi : s.inputs with
    | nil =>
      simp only [hi] at h
      unfold freeTurn at h
      have hk : s = { s with inputs := s.inputs, tick := s.tick } := rfl
      have hk' : ∀ k, ({ s with tick := k } : State) = { s with inputs := s.inputs, tick := k } := fun _ => rfl
      split at h
      · split at h
        · injection h with h; subst h
          exact ⟨s.inputs, s.tick + 1, .bus _ _ (by simp [hi])⟩
        · exact ⟨s.inputs, s.tick + 1, sequencerTurn_effect rfl h⟩
      · exact ⟨s.inputs, s.tick, sequencerTurn_effect rfl h⟩
    | cons m rest =>
      simp only [hi] at h
      refine ⟨rest, s.tick, ?_⟩
      cases m with
      | sequencer => exact sequencerTurn_effect rfl h
      | bus c b => simp only [applyMove] at h; injection h with h; subst h; exact .bus c b (by simp [hi])
      | host a => exact .host a rest _ hi (hostAccess_effect h)
      | reset => simp only [applyMove] at h; injection h with h; subst h; exact .reset rest hi

end Sys2Proof.Machine
end

