-- ==== Sys2Proof/Laws/Run.lean ====
section
/-! SUPPORT. Runs of one command along moves: a run along two lists is one run after the other, and what one move does. -/

namespace Sys2Proof.Machine

/-- A sequencer move while the command runs is one exec. -/
theorem execMoves_sequencer {i : Instr} {s t : State} {ms : List Move} (hb : s.busy = true) (h : exec i s = .next t) :
    execMoves i (.sequencer :: ms) s = execMoves i ms t := by
  simp only [execMoves, hb, if_true, h]

/-- A sequencer move after the finish does nothing. -/
theorem execMoves_idle {i : Instr} {s : State} {ms : List Move} (hb : s.busy = false) :
    execMoves i (.sequencer :: ms) s = execMoves i ms s := by
  simp [execMoves, hb]

theorem execMoves_bus {i : Instr} {s : State} {ms : List Move} {c : Code} {b : Byte} :
    execMoves i (.bus c b :: ms) s = execMoves i ms (busStep c b s) := rfl

theorem execMoves_nil {i : Instr} {s : State} : execMoves i [] s = .next s := rfl

/-- A run that answers a next state goes on from it. -/
theorem execMoves_append {i : Instr} {as bs : List Move} {s t : State} (h : execMoves i as s = .next t) :
    execMoves i (as ++ bs) s = execMoves i bs t := by
  induction as generalizing s with
  | nil => simp only [execMoves] at h; injection h with h; subst h; rfl
  | cons m ms ih =>
    cases m with
    | sequencer =>
      simp only [List.cons_append, execMoves] at h ⊢
      split
      · rename_i hb
        simp only [hb, if_true] at h
        cases he : exec i s with
        | next u => simp only [he] at h ⊢; exact ih h
        | fault f => simp [he] at h
        | refused r => simp [he] at h
      · rename_i hb
        simp only [hb] at h
        exact ih h
    | bus c b => exact ih h
    | host a =>
      simp only [List.cons_append, execMoves] at h ⊢
      cases he : hostAccess a s with
      | next u => simp only [he] at h ⊢; exact ih h
      | fault f => simp [he] at h
      | refused r => simp [he] at h
    | reset => exact ih h

theorem sequencerMoves_succ (k : Nat) : sequencerMoves (k + 1) = .sequencer :: sequencerMoves k := rfl

theorem sequencerMoves_add (m n : Nat) : sequencerMoves (m + n) = sequencerMoves m ++ sequencerMoves n := by
  exact List.replicate_add ..

/-- The bus step leaves BUSY alone. -/
@[simp] theorem busStep_busy (c : Code) (b : Byte) (s : State) : (busStep c b s).busy = s.busy := by
  simp [State.busy]

end Sys2Proof.Machine
end

