-- ==== Sys2Proof/Tests/Slice0.lean ====
section
/-! SUPPORT. The model's own tests. Expected values come from the spec: the formats of R66 (30_encoding.md), the examples of each command's
rule and the vectors of 95_test_vectors.md. The second half gives, for every obligation with hypotheses, a concrete
state and operands that meet them together. -/

namespace Sys2Proof.Tests

open Sys2Proof Sys2Proof.Machine

/-! ## Helpers -/

/-- Budgets of two reads. -/
def small (m : Mode) : Params := { Params.default with pollBudget := 2, stopBudget := 2, mode := m }

/-- The block enabled, as INIT leaves it, with a chosen completion flag (R80 of 40_bitrate.md). -/
def ready (m : Mode) (int : Bool) : State :=
  { State.resetWith (small m) with cr := { int := int, ea := false, sta := false, sto := false, en := true } }

/-- The command `i` at position `p`. -/
def running (i : Instr) (p : Pos) (s : State) : State := { s with seq := some { cur := encode i, pos := p, held := 0#8 } }

/-- A pending action. -/
def pending (a : Action) (b : Byte) (s : State) : State := { s with pend := some { act := a, byte := b } }

/-- The status code of a status value. -/
def status (v : Byte) (s : State) : State := { s with sr := { s.sr with code := codeOfStatus v } }

/-- What a next state shows; nothing for a fault or a refusal. -/
def seen {α : Type} (r : Result) (f : State → α) : Option α :=
  match r with
  | .next t => some (f t)
  | .fault _ => none
  | .refused _ => none

/-- The fault a step ends in. -/
def faultOf (r : Result) : Option Fault :=
  match r with
  | .next _ => none
  | .fault f => some f
  | .refused _ => none

/-- Where the sequencer stands. -/
def posOf (s : State) : Option Pos := s.seq.map Seq.pos

/-- The host's next access. -/
def hostNext (a : HostAccess) (s : State) : State := { s with inputs := [.host a] }

/-! ## WellFormed: the one argument check (R69 of 30_encoding.md; R79 of 40_bitrate.md) -/

theorem test_wf_refuses_zero_khz : (Instr.setBitrate 0#16).wf = false := by decide
theorem test_wf_admits_one_khz : (Instr.setBitrate 1#16).wf = true := by decide
theorem test_exec_rejects_zero_khz : seen (exec (.setBitrate 0#16) State.reset) (fun t => (t.result, t.busy, t.br)) =
    some (0x00006400#32, false, 0x00#8) := by decide

/-! ## Decode: words written out bit by bit from the formats of R66 -/

theorem test_decode_setBitrate : decode 0b00000001000000000000000110010000#32 = .ok (.setBitrate 400#16) := rfl
theorem test_decode_init : decode 0b00000010000000000000000000000000#32 = .ok (.init) := rfl
theorem test_decode_sendStart : decode 0b00010000000000000000000000000000#32 = .ok (.sendStart) := rfl
theorem test_decode_sendRepeatedStart : decode 0b00010001000000000000000000000000#32 = .ok (.sendRepeatedStart) := rfl
theorem test_decode_sendStop : decode 0b00010010000000000000000000000000#32 = .ok (.sendStop) := rfl
theorem test_decode_sendByte : decode 0b00010011000000000000000000111010#32 = .ok (.sendByte 0x3A#8) := rfl
theorem test_decode_sendWriteAddress : decode 0b00010100000111010000000000000000#32 = .ok (.sendWriteAddress 0x1D#7) := rfl
theorem test_decode_sendReadAddress : decode 0b00010101011111110000000000000000#32 = .ok (.sendReadAddress 0x7F#7) := rfl
theorem test_decode_sendData : decode 0b00010110000000000000000000101101#32 = .ok (.sendData 0x2D#8) := rfl
theorem test_decode_receiveByte_nack : decode 0b00010111000000000000000000000000#32 = .ok (.receiveByte false) := rfl
theorem test_decode_receiveByte_ack : decode 0b00010111000000000000000000000001#32 = .ok (.receiveByte true) := rfl
theorem test_decode_getReceivedByte : decode 0b00011000000000000000000000000000#32 = .ok (.getReceivedByte) := rfl
theorem test_decode_getStatus : decode 0b00011001000000000000000000000000#32 = .ok (.getStatus) := rfl
theorem test_decode_readRegister : decode 0b00100000000111010000110100000000#32 = .ok (.readRegister 0x1D#7 0x0D#8) := rfl
theorem test_decode_readRegisters : decode 0b00100001000111010001000000000011#32 = .ok (.readRegisters 0x1D#7 0x10#8 3#8) := rfl
theorem test_decode_writeRegister : decode 0b00100010000111010010110100001000#32 = .ok (.writeRegister 0x1D#7 0x2D#8 0x08#8) := rfl
theorem test_decode_writeRegisters : decode 0b00100011010100000001000000000011#32 = .ok (.writeRegisters 0x50#7 0x10#8 3#8) := rfl

/-- The illegal words of V0: unassigned opcodes. -/
theorem test_decode_unassigned : decode 0x03000000#32 = .error .unassignedOpcode ∧ decode 0x1A000000#32 = .error .unassignedOpcode ∧
    decode 0x24000000#32 = .error .unassignedOpcode := ⟨rfl, rfl, rfl⟩
/-- The illegal words of V0: reserved bits. -/
theorem test_decode_reserved : decode 0x13010000#32 = .error .reservedBitSet ∧ decode 0x141D0001#32 = .error .reservedBitSet ∧
    decode 0x17000002#32 = .error .reservedBitSet ∧ decode 0x201D2D01#32 = .error .reservedBitSet := ⟨rfl, rfl, rfl, rfl⟩
/-- Little-endian in the window (R49 of 20_memory.md): the byte-wise submission of V0. -/
theorem test_decode_bytes : decodeBytes [0x08#8, 0x2D#8, 0x1D#8, 0x22#8] = .ok (.writeRegister 0x1D#7 0x2D#8 0x08#8) := rfl
theorem test_decode_three_bytes : decodeBytes [0x08#8, 0x2D#8, 0x1D#8] = .error .notOneWord := rfl
theorem test_decodeTableWord : decodeTableWord 32 0x20000000 = some (.readRegister 0#7 0#8) := by decide
theorem test_withFetchWord : seen (step (State.reset.withFetchWord 32 0x10000000)) (fun t => (t.cmd, posOf t)) =
    some (0x10000000#32, some (.start .issue)) := by decide

/-! ## One step of each command -/

/-- V1: 100 kHz at 7,372,800 Hz gives 0x1C. -/
theorem test_setBitrate_divider : seen (exec (.setBitrate 100#16) (running (.setBitrate 100#16) .setBr State.reset))
    (fun t => (t.br, t.acc.value)) = some (0x1C#8, 0x1C#8) := by decide
/-- V1: 7 kHz selects prescaler 16. -/
theorem test_setBitrate_prescaler : seen (exec (.setBitrate 7#16) (running (.setBitrate 7#16) .setPs State.reset)) (fun t => t.sr.toByte) =
    some 0xFA#8 := by decide
/-- R80: EN set, INT as it was. -/
theorem test_init_enable : seen (exec .init (running .init .enable (ready .faithful true))) (fun t => (t.cr.toByte, t.busev)) =
    some (0x84#8, []) := by decide
/-- R83: CR just after START is 0x24. -/
theorem test_sendStart_issue : seen (exec .sendStart (running .sendStart (.start .issue) (ready .faithful true)))
    (fun t => (t.cr.toByte, t.phase, t.busev)) = some (0x24#8, .started, [.issued .start 0#8]) := by decide
/-- V2.2: status 0x10 where START_OK is expected. -/
theorem test_sendStart_mismatch : seen (exec .sendStart (running .sendStart (.start (.check true)) (status 0x10#8 (ready .faithful true))))
    (fun t => (pack t.acc, t.log)) = some (0x01013200#32, [⟨.start, 0x08#8, 0x10#8⟩]) := by decide
/-- V2.3: status 0x08 where REPEATED_START_OK is expected. -/
theorem test_sendRepeatedStart_mismatch : seen (exec .sendRepeatedStart
    (running .sendRepeatedStart (.repeatedStart (.check true)) (status 0x08#8 (ready .faithful true)))) (fun t => pack t.acc) =
    some 0x00823200#32 := by decide
/-- R94: the FAITHFUL spin stays where it is while STO = 1. -/
theorem test_sendStop_spins : seen (exec .sendStop
    { running .sendStop (.stop (.spin 0)) (ready .faithful false) with cr := ⟨false, false, false, true, true⟩ }) posOf =
    some (some (.stop (.spin 0))) := by decide
/-- R94: the HARDENED stop gives up after STOP_BUDGET reads. -/
theorem test_sendStop_gives_up : seen (exec .sendStop
    { running .sendStop (.stop (.spin 1)) (ready .hardened false) with cr := ⟨false, false, false, true, true⟩ }) posOf =
    some (some (.stop .timeout)) := by decide
/-- R95: the byte is issued from DR in phase DATA. -/
theorem test_sendByte_issue : seen (exec (.sendByte 0x3A#8)
    { running (.sendByte 0x3A#8) (.byte .issue) (ready .faithful true) with dr := 0x3A#8 })
    (fun t => (t.pend, t.cr.toByte, t.phase)) = some (some ⟨.send, 0x3A#8⟩, 0x04#8, .data) := by decide
/-- W4: address byte of a write. -/
theorem test_sendWriteAddress_byte : seen (exec (.sendWriteAddress 0x7F#7)
    (running (.sendWriteAddress 0x7F#7) (.writeAddress .load) (ready .faithful true))) (fun t => t.dr) = some 0xFE#8 := by decide
/-- R96: a NACK answer. -/
theorem test_sendWriteAddress_nack : seen (exec (.sendWriteAddress 0x1D#7)
    (running (.sendWriteAddress 0x1D#7) (.writeAddress (.check true)) (status 0x20#8 (ready .faithful true)))) (fun t => pack t.acc) =
    some 0x02032200#32 := by decide
/-- W4: address byte of a read. -/
theorem test_sendReadAddress_byte : seen (exec (.sendReadAddress 0x50#7)
    (running (.sendReadAddress 0x50#7) (.readAddress .load) (ready .faithful true))) (fun t => t.dr) = some 0xA1#8 := by decide
/-- R90: HARDENED records a failed pre-check and sends nothing. -/
theorem test_sendData_precheck_timeout : seen (exec (.sendData 0x55#8)
    (running (.sendData 0x55#8) (.data 0 .waitTimeout) (ready .hardened false))) (fun t => (pack t.acc, t.dr, posOf t)) =
    some (0x0F841100#32, 0xFF#8, some .finish) := by decide
/-- R100: 0x58 passes under the mask 0xF0. -/
theorem test_receiveByte_check : seen (exec (.receiveByte false)
    (running (.receiveByte false) (.receive 0 (.check true)) (status 0x58#8 (ready .faithful true)))) (fun t => (pack t.acc, t.log)) =
    some (0#32, []) := by decide
/-- R99: ACK sets EA. -/
theorem test_receiveByte_ack : seen (exec (.receiveByte true) (running (.receiveByte true) (.receive 0 .issue) (ready .faithful true)))
    (fun t => (t.cr.toByte, t.pend)) = some (0x44#8, some ⟨.recvAck, 0#8⟩) := by decide
/-- R101: DR at reset is 0xFF. -/
theorem test_getReceivedByte : seen (exec .getReceivedByte (running .getReceivedByte .readDr State.reset)) (fun t => t.acc.value) =
    some 0xFF#8 := by decide
/-- R102: the prescaler bits are masked off. -/
theorem test_getStatus_masks : seen (exec .getStatus
    { running .getStatus .readSr State.reset with sr := ⟨0x1F#5, 2#2⟩ }) (fun t => t.acc.value) = some 0xF8#8 := by decide
/-- R91: the first write of the toggle disables. -/
theorem test_readRegister_toggles : seen (exec (.readRegister 0x1D#7 0x0D#8)
    (running (.readRegister 0x1D#7 0x0D#8) (.toggle .off) (status 0x58#8 (ready .faithful true))))
    (fun t => (t.cr.toByte, t.sr.toByte, t.busev)) = some (0x00#8, 0xF8#8, [.disabled]) := by decide
/-- R108: HARDENED returns 0 when an error was recorded. -/
theorem test_readRegister_hardened_value : seen (exec (.readRegister 0x1D#7 0x0D#8)
    { ready .hardened false with
      seq := some ⟨encode (.readRegister 0x1D#7 0x0D#8), .toggle .on, 0x2A#8⟩
      acc := { Acc.zero with timeout := true, errKind := .stopTimeout, errPhase := .stop } }) (fun t => t.acc.value) =
    some 0#8 := by decide
/-- R110: the byte is stored, counted, and the last receive is asked for with NACK. -/
theorem test_readRegisters_store : seen (exec (.readRegisters 0x1D#7 0x10#8 3#8)
    { running (.readRegisters 0x1D#7 0x10#8 3#8) (.storeBuf 1) (ready .faithful true) with dr := 0x22#8 })
    (fun t => (t.buf.read 1, t.acc.value, posOf t)) = some (some 0x22#8, 2#8, some (.receive 2 .issue)) := by decide
theorem test_readRegisters_last_nack : seen (exec (.readRegisters 0x1D#7 0x10#8 3#8)
    (running (.readRegisters 0x1D#7 0x10#8 3#8) (.receive 2 .issue) (ready .faithful true))) (fun t => t.pend) =
    some (some ⟨.recvNack, 0#8⟩) := by decide
/-- R104: HARDENED aborts to the stop on a NACK. -/
theorem test_writeRegister_aborts : seen (exec (.writeRegister 0x1D#7 0x2D#8 0x08#8)
    (running (.writeRegister 0x1D#7 0x2D#8 0x08#8) (.data 0 (.check true)) (status 0x30#8 (ready .hardened true))))
    (fun t => (posOf t, t.acc.aborted, t.acc.errKind)) = some (some (.stop .issue), true, .nack) := by decide
/-- R105: no toggle after a write's stop. -/
theorem test_writeRegister_no_toggle : seen (exec (.writeRegister 0x1D#7 0x2D#8 0x08#8)
    (running (.writeRegister 0x1D#7 0x2D#8 0x08#8) (.stop (.spin 0)) (ready .faithful false))) (fun t => (posOf t, t.phase)) =
    some (some .finish, .idle) := by decide
/-- R112 and U6: a buffer byte nothing has written. -/
theorem test_writeRegisters_unwritten : faultOf (exec (.writeRegisters 0x50#7 0x10#8 3#8)
    (running (.writeRegisters 0x50#7 0x10#8 3#8) (.loadBuf 2) (ready .faithful true))) = some (.bufUnwritten 2) := by decide
/-- R112: n = 0 goes from the sub-address to the stop. -/
theorem test_writeRegisters_zero : seen (exec (.writeRegisters 0x50#7 0x10#8 0#8)
    (running (.writeRegisters 0x50#7 0x10#8 0#8) (.subAddress (.check true)) (status 0x28#8 (ready .faithful true)))) posOf =
    some (some (.stop .issue)) := by decide

/-! ## The other agents -/

/-- R42: a STOP completes without INT. -/
theorem test_bus_stop : (fun t : State => (t.cr.toByte, t.sr.toByte, t.pend))
    (busStep 3#5 9#8 (pending .stop 0#8 { ready .faithful false with cr := ⟨false, false, false, true, true⟩ })) =
    (0x04#8, 0xF8#8, none) := by decide
/-- R49: RESULT 0x02032200 reads 0x22 at offset 5. -/
theorem test_host_reads_result : seen (step (hostNext (.read 5 1) { State.reset with result := 0x02032200#32 })) (fun t => t.hostData) =
    some 0x22#32 := by decide
theorem test_host_clears_overrun : seen (step (hostNext (.write 8 1 0x02#32) { State.reset with overrun := true })) (fun t => t.overrun) =
    some false := by decide
theorem test_host_outside : faultOf (step (hostNext (.read 512 1) State.reset)) = some (.outsideWindow 512) := by decide
theorem test_host_misaligned : seen (step (hostNext (.write 2 4 0#32) State.reset)) (fun t => (t.hostFaults, t.cmd)) =
    some ([.accessNotAdmitted], 0#32) := by decide

/-! ## Witnesses: for every obligation with hypotheses, a concrete state and operands that meet them together

Each theorem's name ends in the obligation's name. -/

/-- Default parameters in a chosen mode. -/
def full (m : Mode) : Params := { Params.default with mode := m }

theorem test_witness_EncodeOfDecodedIsTheWord : decode 0x23501003#32 = .ok (.writeRegisters 0x50#7 0x10#8 3#8) := rfl

theorem test_witness_WordIsCommandOfItsOpcodeRow :
    (⟨"READ_REGISTERS", 0xFF800000#32, 0x21000000#32⟩ : OpcodeRow) ∈ opcodeRows ∧ 0x217FFFFF#32 &&& 0xFF800000#32 = 0x21000000#32 := by
  decide

theorem test_witness_StepSubmitsTheDecodedCommand :
    let s := hostNext (.write 0 4 0x01000000#32) State.reset
    Params.wf s.cfg = true ∧ s.busy = false ∧ decode 0x01000000#32 = .ok (.setBitrate 0#16) ∧
    s.inputs = .host (.write s.cfg.hostBase 4 0x01000000#32) :: [] := ⟨by decide, by decide, rfl, by decide⟩

theorem test_witness_StepRunsTheCurrentCommand :
    let s := running .sendStart (.start (.poll 0)) (ready .faithful false)
    let p := pending .start 0#8 s
    Params.wf s.cfg = true ∧ s.seq = some ⟨encode .sendStart, .start (.poll 0), 0#8⟩ ∧ decode (encode .sendStart) = .ok .sendStart ∧
    ({ s with inputs := [.sequencer] } : State).inputs = .sequencer :: [] ∧ (s.inputs = [] ∧ s.busEnabled = false) ∧
    Params.wf p.cfg = true ∧ p.seq = some ⟨encode .sendStart, .start (.poll 0), 0#8⟩ ∧ (p.inputs = [] ∧ p.busEnabled = true) :=
  ⟨by decide, rfl, rfl, rfl, by decide, by decide, rfl, by decide⟩

theorem test_witness_MachineRunIsTheCommandsRun :
    let s := running .sendStart (.start .issue) (ready .faithful true)
    Params.wf s.cfg = true ∧ s.seq = some ⟨encode .sendStart, .start .issue, 0#8⟩ ∧ decode (encode .sendStart) = .ok .sendStart ∧
    ∀ m ∈ ([.sequencer, .bus 1#5 0#8, .sequencer] : List Move), m.internal = true := ⟨by decide, rfl, rfl, by decide⟩

theorem test_witness_SubmittedWordIsRejectedOrAccepted :
    let s (w : Word) := hostNext (.write 0 4 w) State.reset
    (∀ w, Params.wf (s w).cfg = true ∧ (s w).busy = false ∧ (s w).inputs = .host (.write (s w).cfg.hostBase 4 w) :: []) ∧
    (running .sendStart (.start .delay) (s 0#32)).busy = true ∧
    decode 0x14800000#32 = .error .reservedBitSet ∧ decode 0x01000000#32 = .ok (.setBitrate 0#16) ∧
    (decode 0x01000001#32 = .ok (.setBitrate 1#16) ∧ Instr.setBitrate 1#16 ≠ .setBitrate 0#16) :=
  ⟨fun _ => ⟨(by decide : Params.wf Params.default = true), rfl, rfl⟩, rfl, rfl, rfl, rfl, by decide⟩

theorem test_witness_ExecAcceptsEveryCommand : State.reset.busy = false := by decide

theorem test_witness_ByteWritesSubmitLikeOneWordWrite :
    Params.wf State.reset.cfg = true ∧ (0x08#32).extractLsb' 0 8 = (0x221D2D08#32).extractLsb' 0 8 ∧
    (0x2D#32).extractLsb' 0 8 = (0x221D2D08#32).extractLsb' 8 8 ∧ (0x1D#32).extractLsb' 0 8 = (0x221D2D08#32).extractLsb' 16 8 ∧
    (0x22#32).extractLsb' 0 8 = (0x221D2D08#32).extractLsb' 24 8 := by decide

theorem test_witness_WordSubmittedWhileBusyIsDropped :
    let s := hostNext (.write 0 4 0x12000000#32) (running .sendStart (.start .delay) (ready .faithful false))
    Params.wf s.cfg = true ∧ s.busy = true ∧ s.inputs = .host (.write s.cfg.hostBase 4 0x12000000#32) :: [] := by decide

/-- One state for each breach, at the ends of its range; the last is a step that keeps the record. -/
theorem test_witness_HostBreachesAreRecordedForEver :
    let b := running .sendStart (.start .delay) (ready .faithful false)
    (Params.wf b.cfg = true ∧ b.busy = true ∧ b.cfg.hostBase = 0) ∧
    ((hostNext (.write 0 4 1#32) b).inputs = .host (.write b.cfg.hostBase 4 1#32) :: []) ∧
    ((hostNext (.write 3 1 1#32) b).inputs = .host (.write (b.cfg.hostBase + 3) 1 1#32) :: []) ∧
    ((hostNext (.read 256 1) b).inputs = .host (.read (b.cfg.hostBase + 256) 1) :: []) ∧
    ((hostNext (.write 511 1 1#32) b).inputs = .host (.write (b.cfg.hostBase + 511) 1 1#32) :: []) ∧
    ((hostNext (.read 8 4) b).inputs = .host (.read (b.cfg.hostBase + 8) 4) :: []) ∧
    ((hostNext (.write 0 2 1#32) b).inputs = .host (.write (b.cfg.hostBase + 0) 2 1#32) :: []) ∧
    seen (step { b with hostFaults := [.bufWhileBusy] }) (fun t => t.hostFaults) = some [.bufWhileBusy] := by decide

/-- The clauses divide the offsets 0 to 511, so a boundary offset of each range is enough; BUF byte 0 is written, byte 255 is not. -/
theorem test_witness_HostReadReturnsTheWindow :
    let s : State := { State.reset with buf := [(0, 7#8)] }
    Params.wf s.cfg = true ∧ 3 < 4 ∧ (4 ≤ 4 ∧ 7 < 8) ∧ (9 ≤ 9 ∧ 255 < 256) ∧
    (256 ≤ 256 ∧ 256 < 512 ∧ s.busy = false ∧ s.buf.read (256 - 256) = some 7#8) ∧
    (256 ≤ 511 ∧ 511 < 512 ∧ s.busy = false ∧ s.buf.read (511 - 256) = none) ∧
    (let b := running .sendStart (.start .delay) s
    Params.wf b.cfg = true ∧ b.busy = true) := by decide

theorem test_witness_HostWriteChangesOnlyItsTarget :
    Params.wf State.reset.cfg = true ∧ 2 < 3 ∧ (4 ≤ 4 ∧ 7 < 8) ∧ (9 ≤ 9 ∧ 255 < 256) ∧
    (256 ≤ 256 ∧ 511 < 512 ∧ State.reset.busy = false) := by decide

theorem test_witness_OverrunIsClearedOnlyByTheHostOrReset :
    let s := hostNext (.write 8 1 0xFF#32) { State.reset with overrun := true }
    s.overrun = true ∧ seen (step s) (fun t => t.overrun) = some false := by decide

theorem test_witness_ResetSetsEveryPieceOfState :
    let s : State := { running .sendStop (.stop (.spin 0)) (ready .hardened true) with inputs := [.reset, .sequencer] }
    Params.wf s.cfg = true ∧ s.inputs = .reset :: [.sequencer] := by decide

theorem test_witness_ResetBlockWaitsForASubmission :
    Params.wf (full .hardened) = true ∧ seen (step State.reset) (fun t => t.cfg) = some State.reset.cfg := by decide

/-- Each of the conditions, broken alone at the edge of its range. -/
theorem test_witness_BadParameterSetIsRefused :
    ({ Params.default with fClk := 0 }).fClk < 1 ∧ ({ Params.default with pollBudget := 0 }).pollBudget < 1 ∧
    ({ Params.default with stopBudget := 0 }).stopBudget < 1 ∧ (0x09#8).extractLsb' 0 3 ≠ 0#3 ∧ (0x58#8).extractLsb' 0 4 ≠ 0#4 ∧
    ¬ ([0x08#8, 0x10#8, 0x18#8, 0x40#8, 0x28#8, 0x08#8] : List Byte).Nodup ∧
    ({ Params.default with writeDataNack := 0x28#8 }).writeDataNack = Params.default.writeDataOk ∧
    (∃ s : State, step s = .refused .badParameters) :=
  ⟨by decide, by decide, by decide, by decide, by decide, by decide, by decide,
    State.resetWith { Params.default with fClk := 0 }, rfl⟩

theorem test_witness_CrWriteSetsFieldsAndDisables :
    ((ready .faithful true).cr.en = true ∧ (0x00#8)[2] = false) ∧ ¬((ready .faithful true).cr.en = true ∧ (0x04#8)[2] = false) ∧
    ¬(State.reset.cr.en = true ∧ (0x00#8)[2] = false) := by decide

theorem test_witness_BusAgentCompletesThePendingAction :
    let s (a : Action) : State := { pending a 0#8 (ready .faithful false) with inputs := [.bus 0x0A#5 7#8] }
    let n : State := { ready .faithful false with inputs := [.bus 0x0A#5 7#8] }
    Params.wf n.cfg = true ∧ (s .stop).inputs = .bus 0x0A#5 7#8 :: [] ∧
    ((s .stop).pend = some ⟨.stop, 0#8⟩ ∧ (s .stop).cr.en = true) ∧
    ((s .recvAck).pend = some ⟨.recvAck, 0#8⟩ ∧ (s .recvAck).cr.en = true ∧ Action.recvAck ≠ .stop) ∧ n.pend = none ∧
    (let w : State := { running .sendStart (.start (.poll 0)) (pending .start 0#8 (ready .faithful false)) with inputs := [.sequencer] }
    w.inputs = .sequencer :: [] ∧ seen (step w) (fun t => t.pend) = some (some ⟨.start, 0#8⟩)) := by decide

theorem test_witness_StatusValueMasksPrescaler : (⟨0x1F#5, 0#2⟩ : Sr).code = (⟨0x1F#5, 2#2⟩ : Sr).code := by decide

theorem test_witness_SetBitrateWritesPrescalerAndDivider :
    State.reset.busy = false ∧ (0#16 : BitVec 16) = 0#16 ∧ (1#16 : BitVec 16) ≠ 0#16 := by decide

theorem test_witness_InitSelects100kHzAndEnables : State.reset.busy = false := by decide

/-- The whole budget is admitted: the first read and the last. -/
theorem test_witness_StartCommandsIssueStartAndCheck :
    let s := ready .faithful false
    Params.wf s.cfg = true ∧ s.busy = false ∧ 0 < s.cfg.pollBudget ∧ 1 < s.cfg.pollBudget ∧
    (Instr.sendRepeatedStart = .sendRepeatedStart ∧ ErrPhase.repeatedStart = .repeatedStart ∧ 0x10#8 = s.cfg.repeatedStartOk ∧
      Pos.repeatedStart .issue = .repeatedStart .issue) ∧
    (Instr.sendStart = .sendStart ∧ ErrPhase.start = .start ∧ 0x08#8 = s.cfg.startOk ∧ Pos.start .issue = .start .issue) := by decide

theorem test_witness_SendStopIssuesStopAndWaits :
    let f := ready .faithful false
    let h := ready .hardened false
    (Params.wf f.cfg = true ∧ f.busy = false ∧ f.cfg.mode = .faithful) ∧
    (Params.wf h.cfg = true ∧ h.busy = false ∧ h.cfg.mode = .hardened ∧ 1 < h.cfg.stopBudget) := by decide

theorem test_witness_SendByteSendsWithoutPostCheck :
    let s := ready .faithful true
    Params.wf s.cfg = true ∧ s.busy = false ∧ s.cr.int = true ∧ 1 < s.cfg.pollBudget := by decide

theorem test_witness_AddressAndDataCommandsSendAndCheck :
    let s := ready .faithful true
    (Params.wf s.cfg = true ∧ s.busy = false ∧ s.cr.int = true ∧ 1 < s.cfg.pollBudget) ∧
    ((0xFE#8).toNat = 2 * (0x7F#7).toNat ∧ 0x18#8 = s.cfg.writeAddressOk ∧ 0x20#8 = s.cfg.writeAddressNack) ∧
    ((0xFF#8).toNat = 2 * (0x7F#7).toNat + 1 ∧ 0x40#8 = s.cfg.readAddressOk ∧ 0x48#8 = s.cfg.readAddressNack) ∧
    (0x28#8 = s.cfg.writeDataOk ∧ 0x30#8 = s.cfg.writeDataNack) := by decide

theorem test_witness_SendPreCheckWaitsForTheCompletionFlag :
    let f := pending .start 0#8 (ready .faithful false)
    let h := pending .start 0#8 (ready .hardened false)
    (Params.wf f.cfg = true ∧ f.busy = false ∧ f.cr.int = false ∧ f.pend = some ⟨.start, 0#8⟩ ∧ Action.start ≠ .stop ∧ f.cr.en = true ∧
      f.cfg.mode = .faithful) ∧
    (Params.wf h.cfg = true ∧ h.busy = false ∧ h.cr.int = false ∧ h.pend = some ⟨.start, 0#8⟩ ∧ h.cr.en = true ∧ 1 < h.cfg.pollBudget ∧
      h.cfg.mode = .hardened) ∧
    (let s := running (.sendByte 0x55#8) (.byte (.wait 0)) (ready .faithful false)
    s.cfg.mode = .faithful ∧ s.seq = some ⟨encode (.sendByte 0x55#8), .byte (.wait 0), 0#8⟩ ∧
    posFits (.sendByte 0x55#8) (.byte (.wait 0)) = true ∧ waitWith (.byte (.wait 0)) 0 = some (.byte (.wait 0)) ∧ s.cr.int = false) := by
  decide

theorem test_witness_ReceiveByteTakesTheByteAndChecks :
    let s := ready .faithful false
    Params.wf s.cfg = true ∧ s.busy = false ∧ 1 < s.cfg.pollBudget := by decide

theorem test_witness_GetCommandsReturnDrAndStatus : State.reset.busy = false := by decide

/-! The answers of a device that acknowledges everything (R29 of 10_state.md). -/

def startA : Answer := (0x01#5, 0#8)
def writeA : Answer := (0x03#5, 0#8)
def dataA : Answer := (0x05#5, 0#8)
def restartA : Answer := (0x02#5, 0#8)
def readA : Answer := (0x08#5, 0#8)
def byteA : Answer := (0x0A#5, 0x2A#8)

theorem readOpening_answered (m : Mode) : readOpeningOk (ready m true).cfg startA writeA dataA restartA readA :=
  ⟨⟨rfl, rfl, rfl⟩, rfl, rfl⟩

/-- Both modes: HARDENED with every check passing, FAITHFUL without any. -/
theorem test_witness_ReadRegisterRunsItsSequence :
    let h := ready .hardened true
    let f := ready .faithful false
    (Params.wf h.cfg = true ∧ h.busy = false ∧ (0x3A#8).toNat = 2 * (0x1D#7).toNat ∧ (0x3B#8).toNat = 2 * (0x1D#7).toNat + 1) ∧
    (readOpeningOk h.cfg startA writeA dataA restartA readA ∧ byteA.isReceiveOk h.cfg) ∧
    (Params.wf f.cfg = true ∧ f.busy = false ∧ f.cfg.mode = .faithful) :=
  ⟨by decide, ⟨readOpening_answered _, rfl⟩, by decide⟩

/-- One byte and 255 bytes. -/
theorem test_witness_ReadRegistersFillsTheBuffer :
    let h := ready .hardened true
    (Params.wf h.cfg = true ∧ h.busy = false ∧ (0xFE#8).toNat = 2 * (0x7F#7).toNat ∧ (0xFF#8).toNat = 2 * (0x7F#7).toNat + 1) ∧
    ([byteA].length = (1#8).toNat ∧ (1#8 : Byte) ≠ 0#8) ∧ ((List.replicate 255 byteA).length = (255#8).toNat ∧ (255#8 : Byte) ≠ 0#8) ∧
    (readOpeningOk h.cfg startA writeA dataA restartA readA ∧ ∀ a ∈ List.replicate 255 byteA, Answer.isReceiveOk a h.cfg) :=
  ⟨by decide, by decide, ⟨List.length_replicate, by decide⟩, readOpening_answered _,
    fun a ha => by rw [List.eq_of_mem_replicate ha]; rfl⟩

theorem test_witness_ReadRegistersOfZeroBytesDoesNothing : State.reset.busy = false := by decide

theorem test_witness_WriteRegisterRunsItsSequence :
    let h := ready .hardened true
    let f := ready .faithful false
    (Params.wf h.cfg = true ∧ h.busy = false ∧ (0x3A#8).toNat = 2 * (0x1D#7).toNat) ∧
    (openingOk h.cfg startA writeA dataA ∧ dataA.isStatus h.cfg.writeDataOk) ∧
    (Params.wf f.cfg = true ∧ f.busy = false ∧ f.cfg.mode = .faithful) :=
  ⟨by decide, ⟨⟨rfl, rfl, rfl⟩, rfl⟩, by decide⟩

/-- No byte, and three written bytes (the example of R112 of 42_transactions.md). -/
theorem test_witness_WriteRegistersSendsTheBuffer :
    let h : State := { ready .hardened true with buf := [(0, 0xAA#8), (1, 0xBB#8), (2, 0xCC#8)] }
    let bs : List Byte := [0xAA#8, 0xBB#8, 0xCC#8]
    (Params.wf h.cfg = true ∧ h.busy = false ∧ (0xA0#8).toNat = 2 * (0x50#7).toNat) ∧
    (([] : List Answer).length = (0#8).toNat ∧ ([] : List Byte).length = (0#8).toNat) ∧
    ([dataA, dataA, dataA].length = (3#8).toNat ∧ bs.length = (3#8).toNat ∧ ∀ k, k < (3#8).toNat → h.buf.read k = bs[k]?) ∧
    (openingOk h.cfg startA writeA dataA ∧ ∀ a ∈ [dataA, dataA, dataA], Answer.isStatus a h.cfg.writeDataOk) :=
  ⟨by decide, by decide, ⟨by decide, by decide, by decide⟩, ⟨rfl, rfl, rfl⟩, fun a ha => by
    have : a = dataA := by simpa using ha
    subst this; rfl⟩

/-- An idle block, a running command, and the one stop. -/
theorem test_witness_CommandsStopOnlyOnAnUnwrittenByte :
    let i : Instr := .writeRegisters 0x50#7 0x10#8 255#8
    State.reset.seq = none ∧ (running i (.loadBuf 254) State.reset).seq = some ⟨encode i, .loadBuf 254, 0#8⟩ ∧
    posFits i (.loadBuf 254) = true ∧ ({ running i (.loadBuf 254) State.reset with buf := [(254, 1#8)] } : State).buf.read 254 ≠ none ∧
    faultOf (exec i (running i (.loadBuf 254) State.reset)) = some (.bufUnwritten 254) := by decide

/-- The positions of its clauses, in order, each in a state that has it; a burst's last byte. -/
theorem test_witness_EachCommandsStepAnswersItsEffect :
    let s (p : Pos) : State := { State.reset with seq := some ⟨0#32, p, 0#8⟩, buf := [(254, 1#8)] }
    (∀ p ∈ ([.setPs, .setBr, .enable, .start .issue, .repeatedStart .issue, .stop .issue, .byte .load, .byte .issue, .writeAddress .load,
        .writeAddress .issue, .readAddress .load, .readAddress .issue, .data 0 .load, .data 0 .issue, .receive 0 .issue, .readDr, .readSr,
        .toggle .on, .storeBuf 254, .loadBuf 254, .data 254 .load] : List Pos), (s p).seq = some ⟨0#32, p, 0#8⟩) ∧
    (0xFE#8).toNat = 2 * (0x7F#7).toNat ∧ (0xFF#8).toNat = 2 * (0x7F#7).toNat + 1 ∧ (s (.loadBuf 254)).buf.read 254 = some 1#8 := by decide

/-- A poll with the flag clear and one with it set. -/
theorem test_witness_CompletionPollMakesExactlyItsBudgetOfReads :
    let i : Instr := .readRegisters 1#7 2#8 255#8
    let p : Pos := .receive 254 (.poll 0)
    let s (b : Bool) := running i p (ready .hardened b)
    1 ≤ (s false).cfg.pollBudget ∧ (s false).seq = some ⟨encode i, p, 0#8⟩ ∧ posFits i p = true ∧ pollWith p 0 = some p ∧
    pollTimeout p = some (.receive 254 .timeout) ∧ pollDone p = some (.receive 254 (.check true)) ∧ (s false).cr.int = false ∧
    (1 < (s false).cfg.pollBudget ∧ pollWith p 1 = some (.receive 254 (.poll 1))) ∧ (s true).cr.int = true := by decide

theorem test_witness_FirstErrorStaysNamed :
    let s : State := { running .sendStart (.start (.check false)) (status 0x20#8 (ready .faithful false)) with
      acc := { Acc.zero with timeout := true, errKind := .timeout, errPhase := .start, errStatus := 0xF8#8 } }
    s.busy = true ∧ s.acc.errKind ≠ .none ∧ s.acc.timeout = true ∧ Acc.zero.errKind = .none ∧
    seen (exec .sendStart s) (fun t => (t.acc.errKind, t.acc.mismatch)) = some (.timeout, true) := by decide

/-- A failing and a passing check, in both modes. -/
theorem test_witness_CompositeAbortsOnlyInHardenedMode :
    let i : Instr := .writeRegister 0x1D#7 0x2D#8 0x08#8
    let p : Pos := .data 0 (.check true)
    let s (m : Mode) (v : Byte) := running i p (status v (ready m true))
    isComposite i = true ∧ posFits i p = true ∧ (s .hardened 0x30#8).seq = some ⟨encode i, p, 0#8⟩ ∧
    (∀ m, m = Mode.faithful ∨ m = .hardened → checkSite (s m 0x30#8).cfg p = some (true, .data, 0x28#8, 0xF8#8)) ∧
    (s .hardened 0x30#8).sr.status &&& 0xF8#8 ≠ 0x28#8 ∧ (s .faithful 0x28#8).sr.status &&& 0xF8#8 = 0x28#8 ∧
    (s .hardened 0x30#8).cfg.mode = .hardened ∧ (s .faithful 0x28#8).cfg.mode = .faithful :=
  ⟨by decide, by decide, by decide, fun m h => by rcases h with rfl | rfl <;> decide, by decide, by decide, by decide, by decide⟩

/-- The end of the stop, the two writes of the toggle, and a finish with no stop before it (R107, R110 of 42_transactions.md). -/
theorem test_witness_ReadsToggleAndWritesDoNot :
    let i : Instr := .readRegister 0x1D#7 0x0D#8
    let s (p : Pos) := running i p (ready .faithful false)
    isComposite i = true ∧ (s (.stop (.spin 0))).seq = some ⟨encode i, .stop (.spin 0), 0#8⟩ ∧
    seen (exec i (s (.stop (.spin 0)))) posOf = some (some (.toggle .off)) ∧
    seen (exec i (s (.toggle .off))) posOf = some (some (.toggle .on)) ∧
    seen (exec i (s (.toggle .on))) posOf = some (some .finish) ∧
    (let z : Instr := .readRegisters 1#7 2#8 0#8
    let f : State := { running z .finish (ready .faithful false) with phase := .started }
    isComposite z = true ∧ f.seq = some ⟨encode z, .finish, 0#8⟩ ∧
    seen (exec z f) (fun t => (t.phase, t.result)) = some (.idle, 0#32)) := by decide

theorem test_witness_StopSpinIsUnboundedOnlyInFaithfulMode :
    let i : Instr := .writeRegister 1#7 2#8 3#8
    let s (m : Mode) : State := { running i (.stop (.spin 1)) (ready m false) with cr := ⟨false, false, false, true, true⟩ }
    (s .faithful).seq = some ⟨encode i, .stop (.spin 1), 0#8⟩ ∧ (s .hardened).seq = some ⟨encode i, .stop (.spin 1), 0#8⟩ ∧
    (s .faithful).cr.sto = true ∧ (s .hardened).cr.sto = true ∧ (s .faithful).cfg.mode = .faithful ∧
    (s .hardened).cfg.mode = .hardened ∧ isComposite i = true := by decide

theorem test_witness_LateReceiveCompletionIsVisible : Params.wf (ready .faithful true).cfg = true ∧ (ready .faithful true).busy = false := by decide

/-- From the last step before its finish, one sequencer move is enough. -/
theorem test_witness_HardenedCommandsAlwaysFinish :
    let i : Instr := .writeRegister 1#7 2#8 3#8
    let s := running i (.stop .timeout) (ready .hardened false)
    let ms : List Move := [.sequencer, .bus 0#5 0#8, .sequencer]
    s.cfg.mode = .hardened ∧ s.seq = some ⟨encode i, .stop .timeout, 0#8⟩ ∧ posFits i (.stop .timeout) = true ∧
    (∀ m ∈ ms, m.internal = true) ∧ 2 ≤ ms.countP (fun m => decide (m = .sequencer)) ∧
    seen (execMoves i ms s) (fun t => t.busy) = some false := by decide

/-! Frames: a running command's step that answers a next state, one for each shape. -/

theorem test_witness_CommandsLeaveHostItemsAlone :
    seen (exec .sendStart (running .sendStart (.start .issue) (ready .faithful true))) (fun t => t.cfg) = some (small .faithful) := by decide

/-- The store step, and a step that stores nothing. -/
theorem test_witness_BufferChangesOnlyAtTheStoreStep :
    let i : Instr := .readRegisters 1#7 2#8 255#8
    seen (exec i (running i (.storeBuf 254) (ready .faithful true))) (fun t => t.buf) = some [(254, 0xFF#8)] ∧
    seen (exec i (running i .finish (ready .faithful true))) (fun t => t.buf) = some [] := by decide

/-- A bit-rate command and another. -/
theorem test_witness_OnlyBitrateCommandsWriteBrAndPs :
    seen (exec .init (running .init .setPs (ready .faithful true))) (fun t => t.sr.ps) = some 0#2 ∧
    seen (exec .sendStop (running .sendStop (.stop .issue) (ready .faithful true))) (fun t => t.br) = some 0#8 ∧
    Instr.sendStop ≠ .init := by decide

/-- A step that changes DR, one that changes SR.CODE, one that changes CR. -/
theorem test_witness_ControllerRegistersChangeOnlyAtTheirSteps :
    let i : Instr := .readRegister 1#7 2#8
    let s (p : Pos) := running i p (status 0x08#8 (ready .faithful true))
    seen (exec i (s (.subAddress .load))) (fun t => decide (t.dr ≠ (s (.subAddress .load)).dr)) = some true ∧
    seen (exec i (s (.toggle .off))) (fun t => decide (t.sr.code ≠ (s (.toggle .off)).sr.code)) = some true ∧
    seen (exec i (s (.stop .issue))) (fun t => decide (t.cr ≠ (s (.stop .issue)).cr)) = some true := by decide

/-- A finish, a step before it, an acceptance. -/
theorem test_witness_ResultChangesOnlyAtFinishOrRejection :
    seen (exec .getStatus (running .getStatus .finish State.reset)) (fun t => t.busy) = some false ∧
    seen (exec .getStatus (running .getStatus .readSr State.reset)) (fun t => t.busy) = some true ∧ Pos.readSr ≠ .finish ∧
    State.reset.seq = none ∧ Instr.getStatus ≠ .setBitrate 0#16 ∧ seen (exec .getStatus State.reset) (fun t => t.busy) = some true := by decide

/-- A step of the machine that is no reset, and a post-check that logs. -/
theorem test_witness_HistoriesOnlyGrow :
    let s := running .sendStart (.start (.check true)) (ready .faithful true)
    s.inputs = [] ∧ seen (step s) (fun t => decide (t.log ≠ s.log)) = some true ∧
    seen (exec .sendStart s) (fun t => decide (t.log ≠ s.log)) = some true := by decide

/-- A step inside a command and its finish. -/
theorem test_witness_RunningCommandIsNeverReplaced :
    let s (p : Pos) := running .sendStart p (ready .faithful true)
    (s .finish).seq = some ⟨encode .sendStart, .finish, 0#8⟩ ∧ (s .finish).inputs = [] ∧
    seen (step (s .finish)) (fun t => t.seq) = some none ∧
    seen (step (s (.start .delay))) posOf = some (some (.start (.poll 0))) := by decide

theorem test_witness_PhaseHistoriesAndBrAreNeverRead :
    seen (exec .sendStart (running .sendStart (.start .issue) State.reset)) posOf = some (some (.start .delay)) := by decide

/-! Invariants: reset meets them (R44 of 10_state.md), and so does a state in the middle of a command. -/

theorem reset_meets_controllerInv : State.reset.ControllerInv where
  pendingEnabled := by decide
  intIdle := by decide
  stoIsStop := by simp [State.reset, State.resetWith]
  togglingDisabled := by decide

theorem reset_meets_accInv : State.reset.AccInv where
  named := by decide
  notIllegal := by decide
  faithfulNotAborted := by decide
  faithfulNoStopTimeout := by decide

/-- A burst write at its last buffer byte. -/
theorem test_witness_PositionAndBufferStayWellFormed :
    let i : Instr := .writeRegisters 0x50#7 0x10#8 3#8
    let s : State := { running i (.loadBuf 2) (ready .faithful true) with buf := [(2, 0xCC#8), (255, 0#8)] }
    s.positionFits = true ∧ s.buf.wf = true ∧ seen (step s) posOf = some (some (.data 2 .ready)) := ⟨rfl, by decide, by decide⟩

theorem test_witness_ControllerStaysCoherent :
    State.reset.ControllerInv ∧ seen (step State.reset) posOf = some none := ⟨reset_meets_controllerInv, by decide⟩

theorem test_witness_AccumulatorStaysConsistent :
    State.reset.AccInv ∧ State.reset.modeFits = true ∧ seen (step State.reset) posOf = some none :=
  ⟨reset_meets_accInv, by decide, by decide⟩

theorem test_witness_PrescalerThreeIsNeverWritten :
    State.reset.sr.ps ≠ 3#2 ∧ seen (step State.reset) (fun t => t.sr.ps) = some 0#2 := by decide

end Sys2Proof.Tests
end

section
/-! Turns of the machine: which agent a step lets move, and what the sequencer's turn is while a command runs (R13 of 00_scope.md;
R42 of 10_state.md; R59 of 20_memory.md). -/

namespace Sys2Proof.Machine

theorem step_eq_turn {s : State} (hw : Params.wf s.cfg = true) : step s = turn s := by
  rw [step, if_pos hw]

theorem step_input {s : State} {m : Move} {rest : List Move} (hw : Params.wf s.cfg = true) (hi : s.inputs = m :: rest) :
    step s = applyMove m { s with inputs := rest } := by
  rw [step_eq_turn hw, turn, hi]

theorem step_without_input {s : State} (hw : Params.wf s.cfg = true) (hi : s.inputs = []) : step s = freeTurn s := by
  rw [step_eq_turn hw, turn, hi]

theorem sequencerTurn_idle {s : State} (hq : s.seq = none) : sequencerTurn s = .next s := by
  rw [sequencerTurn, hq]

theorem sequencerTurn_running {s : State} {q : Seq} {i : Instr} (hq : s.seq = some q) (hd : decode q.cur = .ok i) :
    sequencerTurn s = exec i s := by
  simp only [sequencerTurn, hq, hd]

/-- Settles O6: each clause names the turn that its inputs and `busEnabled` select, and the sequencer's turn is exec of the decoded
CUR. -/
theorem stepRunsTheCurrentCommand : Obligations.StepRunsTheCurrentCommand := by
  unfold Obligations.StepRunsTheCurrentCommand
  intro s q i hw hq hd
  refine ⟨fun rest hi => ?_, fun hi hb => ?_, fun hi hb => ?_⟩
  · calc step s = sequencerTurn { s with inputs := rest } := step_input hw hi
      _ = exec i { s with inputs := rest } := sequencerTurn_running hq hd
  · calc step s = freeTurn s := step_without_input hw hi
      _ = sequencerTurn s := by simp [freeTurn, hb]
      _ = exec i s := sequencerTurn_running hq hd
  · have hs : sequencerTurn { s with tick := s.tick + 1 } = exec i { s with tick := s.tick + 1 } := sequencerTurn_running hq hd
    simp only [step_without_input hw hi, freeTurn, hb, if_true, hs]

end Sys2Proof.Machine
end

section
/-! What refuses: exec only where CUR and position do not belong together (log 12), the host port never; so `badParameters` comes from
the parameter check alone (R9 of 00_scope.md). -/

namespace Sys2Proof.Machine

@[simp] theorem call_ne_refused {P : Type} (q : Seq) (wrap : P → Pos) (after : State → Bool → State) (r : Ret P) (e : Refusal) :
    call q wrap after r ≠ .refused e := by
  obtain ⟨t, ht⟩ := call_answers q wrap after r
  simp [ht]

@[simp] theorem doCall_ne_refused {P : Type} (q : Seq) (wrap : P → Pos) (after : State → State) (r : Ret P) (e : Refusal) :
    doCall q wrap after r ≠ .refused e :=
  call_ne_refused q wrap _ r e

theorem exec_idle_ne_refused {i : Instr} {s : State} (hq : s.seq = none) (r : Refusal) : exec i s ≠ .refused r := by
  rw [exec_idle hq]
  split <;> simp

/-- The only refusal of exec (log 12). -/
theorem exec_refused {i : Instr} {s : State} {r : Refusal} (h : exec i s = .refused r) : r = .noSuchPosition := by
  cases hq : s.seq with
  | none => exact absurd h (exec_idle_ne_refused hq r)
  | some q =>
    obtain ⟨cur, pos, held⟩ := q
    cases i <;>
      simp only [exec, execSetBitrate, execInit, execSendStart, execSendRepeatedStart, execSendStop, execSendByte,
        execSendWriteAddress, execSendReadAddress, execSendData, execReceiveByte, execGetReceivedByte, execGetStatus,
        execReadRegister, execReadRegisters, execWriteRegister, execWriteRegisters, command_running hq] at h <;>
      cases pos <;> simp at h
    case writeRegisters.loadBuf => split at h <;> simp at h
    all_goals exact h.symm

theorem submit_ne_refused (w : Word) (s : State) (r : Refusal) : submit w s ≠ .refused r := by
  simp only [submit]
  split
  · simp
  · rename_i hb
    split
    · exact exec_idle_ne_refused (by simpa [State.busy] using hb) r
    · simp

theorem hostRead8_ne_refused (off : Nat) (s : State) (r : Refusal) : hostRead8 off s ≠ .refused r := by
  unfold hostRead8
  repeat' split
  all_goals simp

theorem hostRead32_ne_refused (off : Nat) (s : State) (r : Refusal) : hostRead32 off s ≠ .refused r := by
  unfold hostRead32
  repeat' split
  all_goals simp

theorem hostWrite8_ne_refused (off : Nat) (b : Byte) (s : State) (r : Refusal) : hostWrite8 off b s ≠ .refused r := by
  unfold hostWrite8
  repeat' split
  all_goals simp [submit_ne_refused]

theorem hostWrite32_ne_refused (off : Nat) (w : Word) (s : State) (r : Refusal) : hostWrite32 off w s ≠ .refused r := by
  unfold hostWrite32
  repeat' split
  all_goals simp [submit_ne_refused]

theorem hostAccess_ne_refused (a : HostAccess) (s : State) (r : Refusal) : hostAccess a s ≠ .refused r := by
  cases a with
  | read addr size =>
    simp only [hostAccess]
    repeat' split
    all_goals simp [hostRead8_ne_refused, hostRead32_ne_refused]
  | write addr size data =>
    simp only [hostAccess]
    repeat' split
    all_goals simp [hostWrite8_ne_refused, hostWrite32_ne_refused]

theorem sequencerTurn_refused {s : State} {r : Refusal} (h : sequencerTurn s = .refused r) : r = .noSuchPosition := by
  unfold sequencerTurn at h
  split at h
  · cases h
  · split at h
    · exact exec_refused h
    · injection h with h; exact h.symm

/-- The only refusal of a turn (log 12). -/
theorem turn_refused {s : State} {r : Refusal} (h : turn s = .refused r) : r = .noSuchPosition := by
  unfold turn at h
  split at h
  case h_1 m rest _ =>
    cases m with
    | sequencer => exact sequencerTurn_refused h
    | bus c b => cases h
    | host a => exact absurd h (hostAccess_ne_refused _ _ _)
    | reset => cases h
  case h_2 =>
    unfold freeTurn at h
    split at h
    · split at h
      · cases h
      · exact sequencerTurn_refused h
    · exact sequencerTurn_refused h

/-- step answers `badParameters` at the parameter sets that the check rejects, and at no other. -/
theorem step_badParameters_iff {s : State} : step s = .refused .badParameters ↔ Params.wf s.cfg = false := by
  constructor
  · intro h
    by_contra hw
    rw [step_eq_turn (by simpa using hw)] at h
    cases turn_refused h
  · intro hw
    simp [step, hw]

/-- A status value is a byte whose bits 2:0 are 0 (R9 (3) of 00_scope.md). -/
theorem isStatusValue_iff (v : Byte) : isStatusValue v = true ↔ v.extractLsb' 0 3 = 0#3 := by
  revert v; decide

theorem low4_mask_iff (v : Byte) : (v &&& 0x0F#8 == 0#8) = true ↔ v.extractLsb' 0 4 = 0#4 := by
  revert v; decide

/-- Settles O18: any broken condition falsifies the parameter check, and `badParameters` comes from that check alone. -/
theorem badParameterSetIsRefused : Obligations.BadParameterSetIsRefused := by
  unfold Obligations.BadParameterSetIsRefused
  intro s p constants
  refine ⟨fun hbad => step_badParameters_iff.mpr ?_, step_badParameters_iff.mp⟩
  by_contra hw
  have hw : Params.wf p = true := by simpa using hw
  simp only [Params.wf, Bool.and_eq_true, decide_eq_true_eq, List.all_eq_true, isStatusValue_iff, low4_mask_iff, bne_iff_ne] at hw
  obtain ⟨⟨⟨⟨⟨⟨⟨⟨⟨⟨hclk, hpoll⟩, hstop⟩, hlow3⟩, hlow4⟩, hnodup⟩, hwa⟩, hra⟩, hwd⟩, -⟩, -⟩ := hw
  rcases hbad with h | h | h | ⟨v, hv, h⟩ | h | h | h | h | h
  · omega
  · omega
  · omega
  · exact h (hlow3 v hv)
  · exact h hlow4
  · exact h hnodup
  · exact hwa h
  · exact hra h
  · exact hwd h

end Sys2Proof.Machine
end

section
/-! exec and the bus step neither read nor write the list of coming moves (log 2): each operation they are made of commutes with
replacing that list. -/

namespace Sys2Proof.Machine

/-- The state with `ms` as its coming moves. -/
def State.withInputs (ms : List Move) (s : State) : State := { s with inputs := ms }

/-- An outcome with `ms` as the coming moves of its next state. -/
def withInputsOutcome (ms : List Move) : Result → Result
  | .next t => .next (t.withInputs ms)
  | .fault f => .fault f
  | .refused r => .refused r

/-- What a procedure leads to, with `ms` as the coming moves. -/
def Ret.withInputs {P : Type} (ms : List Move) : Ret P → Ret P
  | .stay s p => .stay (s.withInputs ms) p
  | .ret s ok => .ret (s.withInputs ms) ok

variable (ms : List Move)

@[simp] theorem withInputs_cfg (s : State) : (s.withInputs ms).cfg = s.cfg := rfl
@[simp] theorem withInputs_cr (s : State) : (s.withInputs ms).cr = s.cr := rfl
@[simp] theorem withInputs_buf (s : State) : (s.withInputs ms).buf = s.buf := rfl
@[simp] theorem withInputs_pend (s : State) : (s.withInputs ms).pend = s.pend := rfl
@[simp] theorem withInputs_seq (s : State) : (s.withInputs ms).seq = s.seq := rfl
@[simp] theorem withInputs_hardened (s : State) : (s.withInputs ms).hardened = s.hardened := rfl

@[simp] theorem withInputsOutcome_next (s : State) : withInputsOutcome ms (.next s) = .next (s.withInputs ms) := rfl
@[simp] theorem withInputsOutcome_fault (f : Fault) : withInputsOutcome ms (.fault f) = .fault f := rfl
@[simp] theorem withInputsOutcome_refused (r : Refusal) : withInputsOutcome ms (.refused r) = .refused r := rfl
@[simp] theorem Ret.withInputs_stay {P : Type} (s : State) (p : P) : (Ret.stay s p).withInputs ms = .stay (s.withInputs ms) p := rfl
@[simp] theorem Ret.withInputs_ret {P : Type} (s : State) (ok : Bool) :
    (Ret.ret s ok : Ret P).withInputs ms = .ret (s.withInputs ms) ok := rfl

/-! Operations on the state -/

@[simp] theorem abort_withInputs (q : Seq) (s : State) : abort q (s.withInputs ms) = (abort q s).withInputs ms := rfl
@[simp] theorem accept_withInputs (i : Instr) (p : Pos) (s : State) :
    accept i p (s.withInputs ms) = (accept i p s).withInputs ms := rfl
@[simp] theorem reject_withInputs (k : ErrKind) (s : State) : reject k (s.withInputs ms) = (reject k s).withInputs ms := rfl
@[simp] theorem recordTimeout_withInputs (ph : ErrPhase) (s : State) :
    recordTimeout ph (s.withInputs ms) = (recordTimeout ph s).withInputs ms := rfl
@[simp] theorem recordStopTimeout_withInputs (s : State) :
    recordStopTimeout (s.withInputs ms) = (recordStopTimeout s).withInputs ms := rfl
@[simp] theorem recordMismatch_withInputs (ph : ErrPhase) (e : Byte) (s : State) :
    recordMismatch ph e (s.withInputs ms) = (recordMismatch ph e s).withInputs ms := rfl
@[simp] theorem completeStop_withInputs (s : State) : completeStop (s.withInputs ms) = (completeStop s).withInputs ms := rfl
@[simp] theorem completeAction_withInputs (a : Action) (c : Code) (b : Byte) (s : State) :
    completeAction a c b (s.withInputs ms) = (completeAction a c b s).withInputs ms := rfl
@[simp] theorem checkOk_withInputs (e m : Byte) (s : State) : checkOk e m (s.withInputs ms) = checkOk e m s := rfl

@[simp] theorem check_withInputs (ph : ErrPhase) (e m : Byte) (s : State) :
    check ph e m (s.withInputs ms) = (check ph e m s).withInputs ms := by
  cases h : checkOk e m s <;> simp [check, h]

@[simp] theorem writeCr_withInputs (v : Byte) (s : State) : writeCr v (s.withInputs ms) = (writeCr v s).withInputs ms := by
  unfold writeCr
  rw [apply_ite (State.withInputs ms)]
  rfl

@[simp] theorem issueIn_withInputs (ph : Phase) (a : Action) (s : State) :
    issueIn ph a (s.withInputs ms) = (issueIn ph a s).withInputs ms := by
  have h : ∀ t : State, writeCr (crPattern a) t = { t with cr := t.cr.written (crPattern a) } :=
    fun t => writeCr_plain (.inr (by cases a <;> rfl))
  simp only [issueIn, issue, h]
  rfl

@[simp] theorem busStep_withInputs (c : Code) (b : Byte) (s : State) :
    busStep c b (s.withInputs ms) = (busStep c b s).withInputs ms := by
  cases he : s.cr.en with
  | false => simp [busStep, he]
  | true =>
    cases hp : s.pend with
    | none => simp [busStep, hp]
    | some p => by_cases hs : p.act = .stop <;> simp [busStep, he, hp, hs]

/-! Procedures -/

@[simp] theorem startStep_withInputs (ph : ErrPhase) (e : Byte) (p : StartPt) (s : State) :
    startStep ph e p (s.withInputs ms) = (startStep ph e p s).withInputs ms := by
  cases p with
  | poll k => cases hr : pollRead s.cfg.pollBudget k s.cr.int <;> simp [startStep, hr]
  | issue | delay | timeout | check c => simp [startStep]

@[simp] theorem sendStep_withInputs (x : Byte) (ph : ErrPhase) (f : Phase) (e : Option Byte) (p : SendPt) (s : State) :
    sendStep x ph f e p (s.withInputs ms) = (sendStep x ph f e p s).withInputs ms := by
  cases p with
  | ready => cases hi : s.cr.int <;> simp [sendStep, hi]
  | wait k =>
    cases hr : pollRead s.cfg.pollBudget k s.cr.int with
    | hit | again k' => simp [sendStep, hr]
    | miss => cases hh : s.hardened <;> simp [sendStep, hr, hh]
  | poll k =>
    cases hr : pollRead s.cfg.pollBudget k s.cr.int with
    | hit => cases he : e.isSome <;> simp [sendStep, hr, he]
    | again k' | miss => simp [sendStep, hr]
  | timeout => cases he : e.isSome <;> simp [sendStep, he]
  | check c => cases e <;> simp [sendStep]
  | load => rfl
  | waitTimeout | issue => simp [sendStep]

@[simp] theorem writeAddressStep_withInputs (a : Addr7) (p : SendPt) (s : State) :
    writeAddressStep a p (s.withInputs ms) = (writeAddressStep a p s).withInputs ms := sendStep_withInputs ..

@[simp] theorem readAddressStep_withInputs (a : Addr7) (p : SendPt) (s : State) :
    readAddressStep a p (s.withInputs ms) = (readAddressStep a p s).withInputs ms := sendStep_withInputs ..

@[simp] theorem dataStep_withInputs (b : Byte) (p : SendPt) (s : State) :
    dataStep b p (s.withInputs ms) = (dataStep b p s).withInputs ms := sendStep_withInputs ..

@[simp] theorem receiveStep_withInputs (ack : Bool) (p : RecvPt) (s : State) :
    receiveStep ack p (s.withInputs ms) = (receiveStep ack p s).withInputs ms := by
  cases p with
  | poll k => cases hr : pollRead s.cfg.pollBudget k s.cr.int <;> simp [receiveStep, hr]
  | issue | timeout | check c => simp [receiveStep]

@[simp] theorem stopStep_withInputs (p : StopPt) (s : State) :
    stopStep p (s.withInputs ms) = (stopStep p s).withInputs ms := by
  cases p with
  | spin k =>
    cases hh : s.hardened with
    | false =>
      cases hs : s.cr.sto with
      | false => simp only [stopStep, withInputs_hardened, withInputs_cr, hh, hs]; rfl
      | true => simp [stopStep, hh, hs]
    | true =>
      cases hr : pollRead s.cfg.stopBudget k (!s.cr.sto) with
      | hit => simp only [stopStep, withInputs_hardened, withInputs_cfg, withInputs_cr, hh, hr]; rfl
      | again k' | miss => simp [stopStep, hh, hr]
  | issue | timeout => simp [stopStep]

@[simp] theorem toggleStep_withInputs (p : TogglePt) (s : State) :
    toggleStep p (s.withInputs ms) = (toggleStep p s).withInputs ms := by
  cases p with
  | off => simp [toggleStep]
  | on => simp only [toggleStep, writeCr_withInputs]; rfl

/-! Calls and commands -/

theorem call_withInputs {P : Type} {q : Seq} {wrap : P → Pos} {after : State → Bool → State}
    (ha : ∀ u ok, after (u.withInputs ms) ok = (after u ok).withInputs ms) (r : Ret P) :
    call q wrap after (r.withInputs ms) = withInputsOutcome ms (call q wrap after r) := by
  cases r with
  | stay u p => rfl
  | ret u ok => simp [call, ha]

theorem doCall_withInputs {P : Type} {q : Seq} {wrap : P → Pos} {after : State → State}
    (ha : ∀ u, after (u.withInputs ms) = (after u).withInputs ms) (r : Ret P) :
    doCall q wrap after (r.withInputs ms) = withInputsOutcome ms (doCall q wrap after r) := by
  refine call_withInputs ms (fun u ok => ?_) r
  cases hh : u.hardened && !ok <;> simp [hh, ha]

/-- exec neither reads nor writes the coming moves. -/
theorem exec_withInputs (i : Instr) (s : State) : exec i (s.withInputs ms) = withInputsOutcome ms (exec i s) := by
  cases hq : s.seq with
  | none =>
    rw [exec_idle hq, exec_idle (s := s.withInputs ms) hq]
    split <;> simp
  | some q =>
    have hq' : (s.withInputs ms).seq = some q := hq
    obtain ⟨cur, pos, held⟩ := q
    cases i <;>
      simp only [exec, execSetBitrate, execInit, execSendStart, execSendRepeatedStart, execSendStop, execSendByte,
        execSendWriteAddress, execSendReadAddress, execSendData, execReceiveByte, execGetReceivedByte, execGetStatus,
        execReadRegister, execReadRegisters, execWriteRegister, execWriteRegisters, command_running hq, command_running hq'] <;>
      cases pos <;>
      simp only [startStep_withInputs, sendStep_withInputs, writeAddressStep_withInputs, readAddressStep_withInputs,
        dataStep_withInputs, receiveStep_withInputs, stopStep_withInputs, toggleStep_withInputs, withInputs_cfg, withInputs_cr,
        withInputs_buf, writeCr_withInputs]
    case writeRegisters.loadBuf k => cases s.buf.read k <;> rfl
    all_goals first
      | exact call_withInputs ms (by intro _ _; rfl) _
      | exact doCall_withInputs ms (by intro _; rfl) _
      | rfl

end Sys2Proof.Machine
end

section
/-! A run of the machine over sequencer and bus moves, by induction on the moves. What is kept along it: the parameters, and that CUR, while
a command runs, decodes to that command (R17 of 10_state.md; R38). -/

namespace Sys2Proof.Machine

theorem SeqEffect.cfg_eq {s u : State} {p : Pos} (h : SeqEffect s p u) : u.cfg = s.cfg := by
  cases h <;> simp

/-- No step of exec changes the parameters (R17 of 10_state.md). -/
theorem exec_cfg {i : Instr} {s t : State} (h : exec i s = .next t) : t.cfg = s.cfg := by
  rcases exec_cases h with ⟨-, -, rfl⟩ | ⟨-, -, rfl⟩ | ⟨q, -, -, rfl⟩ | ⟨q, -, u, a, p, hd, he, -, rfl⟩
  · simp
  · simp
  · simp
  · exact he.cfg_eq

/-- No other command than `i` runs. -/
def State.RunsOnly (i : Instr) (s : State) : Prop := ∀ q, s.seq = some q → decode q.cur = .ok i

theorem State.RunsOnly.of_exec {i : Instr} {s t : State} (hr : s.RunsOnly i) (hb : s.busy = true) (h : exec i s = .next t) :
    t.RunsOnly i := by
  obtain ⟨q, hq⟩ := Option.isSome_iff_exists.mp hb
  rcases exec_running h hq with ⟨-, rfl⟩ | ⟨u, a, p, hd, -, -, rfl⟩
  · intro q' hq'
    simp at hq'
  · intro q' hq'
    obtain rfl : _ = q' := Option.some.inj hq'
    exact hr q hq

theorem State.RunsOnly.of_busStep {i : Instr} {s : State} (hr : s.RunsOnly i) (c : Code) (b : Byte) : (busStep c b s).RunsOnly i := by
  intro q hq
  exact hr q (by simpa using hq)

theorem run_succ_next {s t : State} (h : step s = .next t) (n : Nat) : Host.Core.run core (n + 1) s = Host.Core.run core n t := by
  have h' : core.step s = .next t := h
  simp only [Host.Core.run, h']

theorem run_succ_fault {s : State} {f : Fault} (h : step s = .fault f) (n : Nat) : Host.Core.run core (n + 1) s = .fault f := by
  have h' : core.step s = .fault f := h
  simp only [Host.Core.run, h']

theorem run_succ_refused {s : State} {r : Refusal} (h : step s = .refused r) (n : Nat) :
    Host.Core.run core (n + 1) s = .refused r := by
  have h' : core.step s = .refused r := h
  simp only [Host.Core.run, h']

theorem step_withInputs {s : State} {m : Move} {ms : List Move} (hw : Params.wf s.cfg = true) :
    step (s.withInputs (m :: ms)) = applyMove m (s.withInputs ms) := step_input (s := s.withInputs (m :: ms)) hw rfl

/-- With a sequencer move next, a running command takes its step of exec and the other moves stay. -/
theorem step_sequencer_running {i : Instr} {s : State} {ms : List Move} (hw : Params.wf s.cfg = true) (hr : s.RunsOnly i)
    (hb : s.busy = true) : step (s.withInputs (.sequencer :: ms)) = withInputsOutcome ms (exec i s) := by
  obtain ⟨q, hq⟩ := Option.isSome_iff_exists.mp hb
  calc step (s.withInputs (.sequencer :: ms)) = sequencerTurn (s.withInputs ms) := step_withInputs hw
    _ = exec i (s.withInputs ms) := sequencerTurn_running hq (hr q hq)
    _ = withInputsOutcome ms (exec i s) := exec_withInputs ms i s

theorem step_sequencer_idle {s : State} {ms : List Move} (hw : Params.wf s.cfg = true) (hb : s.busy = false) :
    step (s.withInputs (.sequencer :: ms)) = .next (s.withInputs ms) := by
  calc step (s.withInputs (.sequencer :: ms)) = sequencerTurn (s.withInputs ms) := step_withInputs hw
    _ = .next (s.withInputs ms) := sequencerTurn_idle (by simpa [State.busy] using hb)

theorem step_bus {s : State} {ms : List Move} (hw : Params.wf s.cfg = true) (c : Code) (b : Byte) :
    step (s.withInputs (.bus c b :: ms)) = .next ((busStep c b s).withInputs ms) := by
  calc step (s.withInputs (.bus c b :: ms)) = .next (busStep c b (s.withInputs ms)) := step_withInputs hw
    _ = .next ((busStep c b s).withInputs ms) := by rw [busStep_withInputs]

theorem execMoves_sequencer_fault {i : Instr} {s : State} {f : Fault} {ms : List Move} (hb : s.busy = true)
    (h : exec i s = .fault f) : execMoves i (.sequencer :: ms) s = .fault f := by
  simp only [execMoves, hb, if_true, h]

theorem execMoves_sequencer_refused {i : Instr} {s : State} {r : Refusal} {ms : List Move} (hb : s.busy = true)
    (h : exec i s = .refused r) : execMoves i (.sequencer :: ms) s = .refused r := by
  simp only [execMoves, hb, if_true, h]

/-- The run of the machine along sequencer and bus moves is the run of the one command that may be running. -/
theorem run_eq_execMoves {i : Instr} {ms : List Move} (hm : ∀ m ∈ ms, m.internal = true) (rest : List Move) {s : State}
    (hw : Params.wf s.cfg = true) (hr : s.RunsOnly i) :
    Host.Core.run core ms.length (s.withInputs (ms ++ rest)) = execMoves i ms (s.withInputs rest) := by
  induction ms generalizing s with
  | nil => rfl
  | cons m ms ih =>
    obtain ⟨hm, hms⟩ := List.forall_mem_cons.mp hm
    cases m with
    | sequencer =>
      cases hb : s.busy with
      | false =>
        have hb' : (s.withInputs rest).busy = false := hb
        have hs := run_succ_next (step_sequencer_idle (ms := ms ++ rest) hw hb) ms.length
        exact hs.trans ((ih hms hw hr).trans (execMoves_idle hb').symm)
      | true =>
        have hb' : (s.withInputs rest).busy = true := hb
        have hs := step_sequencer_running (ms := ms ++ rest) hw hr hb
        have he := exec_withInputs rest i s
        cases hx : exec i s with
        | next t =>
          rw [hx] at hs he
          have ht : Params.wf t.cfg = true := by rw [exec_cfg hx, hw]
          exact (run_succ_next hs _).trans ((ih hms ht (hr.of_exec hb hx)).trans (execMoves_sequencer hb' he).symm)
        | fault f =>
          rw [hx] at hs he
          exact (run_succ_fault hs _).trans (execMoves_sequencer_fault hb' he).symm
        | refused r =>
          rw [hx] at hs he
          exact (run_succ_refused hs _).trans (execMoves_sequencer_refused hb' he).symm
    | bus c b =>
      have hs := run_succ_next (step_bus (ms := ms ++ rest) hw c b) ms.length
      have ht := ih hms (s := busStep c b s) (by simpa using hw) (hr.of_busStep c b)
      rw [← busStep_withInputs rest] at ht
      exact hs.trans ht
    | host a => cases hm
    | reset => cases hm

/-- Settles O7, by induction on the moves: exec and the bus step do not see the coming moves, and CUR stays what it decodes to. -/
theorem machineRunIsTheCommandsRun : Obligations.MachineRunIsTheCommandsRun := by
  unfold Obligations.MachineRunIsTheCommandsRun
  intro i ms rest s q hw hq hd hm
  have hr : s.RunsOnly i := fun q' hq' => by
    obtain rfl : q = q' := Option.some.inj (hq.symm.trans hq')
    exact hd
  exact run_eq_execMoves hm rest hw hr

end Sys2Proof.Machine
end

section
/-! A command's word decodes to the command: each format's fields and reserved bits, read back by linear arithmetic, and the opcode of the
row (R65 to R67 of 30_encoding.md). -/

namespace Sys2Proof

theorem opField_encode (i : Instr) : opField (encode i) = Laws.opcode i := by
  cases i with
  | setBitrate khz => exact Laws.OpcodeField.setBitrate khz
  | init => exact Laws.OpcodeField.init
  | sendStart => exact Laws.OpcodeField.sendStart
  | sendRepeatedStart => exact Laws.OpcodeField.sendRepeatedStart
  | sendStop => exact Laws.OpcodeField.sendStop
  | sendByte b => exact Laws.OpcodeField.sendByte b
  | sendWriteAddress a => exact Laws.OpcodeField.sendWriteAddress a
  | sendReadAddress a => exact Laws.OpcodeField.sendReadAddress a
  | sendData b => exact Laws.OpcodeField.sendData b
  | receiveByte ack => exact Laws.OpcodeField.receiveByte ack
  | getReceivedByte => exact Laws.OpcodeField.getReceivedByte
  | getStatus => exact Laws.OpcodeField.getStatus
  | readRegister a r => exact Laws.OpcodeField.readRegister a r
  | readRegisters a r n => exact Laws.OpcodeField.readRegisters a r n
  | writeRegister a r b => exact Laws.OpcodeField.writeRegister a r b
  | writeRegisters a r n => exact Laws.OpcodeField.writeRegisters a r n

/-! Fields of a format (R65, R66) -/

theorem khzField_formatK (op : Byte) (khz : BitVec 16) : khzField (formatK op khz) = khz := by
  apply BitVec.eq_of_toNat_eq; rw [khzField_toNat, formatK_toNat]; omega
theorem dataField_formatB (op d : Byte) : dataField (formatB op d) = d := by
  apply BitVec.eq_of_toNat_eq; rw [dataField_toNat, formatB_toNat]; omega
theorem addr7Field_formatA (op : Byte) (a : Addr7) : addr7Field (formatA op a) = a := by
  apply BitVec.eq_of_toNat_eq; rw [addr7Field_toNat, formatA_toNat]; omega
theorem ackField_formatR (op : Byte) (ack : Bool) : ackField (formatR op ack) = ack := by
  rw [ackField_eq, formatR_toNat]
  cases ack <;> simp <;> omega
theorem addr7Field_formatT3 (op : Byte) (a : Addr7) (r : Byte) : addr7Field (formatT3 op a r) = a := by
  apply BitVec.eq_of_toNat_eq; rw [addr7Field_toNat, formatT3_toNat]; omega
theorem regField_formatT3 (op : Byte) (a : Addr7) (r : Byte) : regField (formatT3 op a r) = r := by
  apply BitVec.eq_of_toNat_eq; rw [regField_toNat, formatT3_toNat]; omega
theorem addr7Field_formatT4 (op : Byte) (a : Addr7) (r d : Byte) : addr7Field (formatT4 op a r d) = a := by
  apply BitVec.eq_of_toNat_eq; rw [addr7Field_toNat, formatT4_toNat]; omega
theorem regField_formatT4 (op : Byte) (a : Addr7) (r d : Byte) : regField (formatT4 op a r d) = r := by
  apply BitVec.eq_of_toNat_eq; rw [regField_toNat, formatT4_toNat]; omega
theorem dataField_formatT4 (op : Byte) (a : Addr7) (r d : Byte) : dataField (formatT4 op a r d) = d := by
  apply BitVec.eq_of_toNat_eq; rw [dataField_toNat, formatT4_toNat]; omega

/-! Reserved bits of a format (R66) -/

theorem reservedOkN_formatN (op : Byte) : reservedOkN (formatN op) = true := by
  rw [reservedOkN, beq_iff_toNat, toNat_extractLsb'_div, formatN_toNat]; simp
theorem reservedOkK_formatK (op : Byte) (khz : BitVec 16) : reservedOkK (formatK op khz) = true := by
  rw [reservedOkK, beq_iff_toNat, toNat_extractLsb'_div, formatK_toNat]; simp; omega
theorem reservedOkB_formatB (op d : Byte) : reservedOkB (formatB op d) = true := by
  rw [reservedOkB, beq_iff_toNat, toNat_extractLsb'_div, formatB_toNat]; simp; omega
theorem reservedOkA_formatA (op : Byte) (a : Addr7) : reservedOkA (formatA op a) = true := by
  rw [reservedOkA, Bool.and_eq_true, beq_iff_toNat, beq_iff_toNat, zField_toNat, toNat_extractLsb'_div, formatA_toNat]; simp; omega
theorem reservedOkR_formatR (op : Byte) (ack : Bool) : reservedOkR (formatR op ack) = true := by
  rw [reservedOkR, beq_iff_toNat, toNat_extractLsb'_div, formatR_toNat]
  cases ack <;> simp <;> omega
theorem reservedOkT3_formatT3 (op : Byte) (a : Addr7) (r : Byte) : reservedOkT3 (formatT3 op a r) = true := by
  rw [reservedOkT3, Bool.and_eq_true, beq_iff_toNat, beq_iff_toNat, zField_toNat, dataField_toNat, formatT3_toNat]; simp; omega
theorem reservedOkT4_formatT4 (op : Byte) (a : Addr7) (r d : Byte) : reservedOkT4 (formatT4 op a r d) = true := by
  rw [reservedOkT4, beq_iff_toNat, zField_toNat, formatT4_toNat]; simp; omega

/-- A command's word is legal and decodes to the command. -/
theorem decode_encode (i : Instr) : decode (encode i) = .ok i := by
  have hop := opField_encode i
  cases i <;>
    simp only [Laws.opcode] at hop <;>
    simp [decode, hop, ifReservedOk] <;>
    simp [encode, khzField_formatK, dataField_formatB, addr7Field_formatA, ackField_formatR, addr7Field_formatT3, regField_formatT3,
      addr7Field_formatT4, regField_formatT4, dataField_formatT4, reservedOkN_formatN, reservedOkK_formatK, reservedOkB_formatB,
      reservedOkA_formatA, reservedOkR_formatR, reservedOkT3_formatT3, reservedOkT4_formatT4]

end Sys2Proof
end

section
/-! What exec answers while a command runs, by position: a next state, at the finish the finished state, the fault of an unwritten BUF byte
(R112 of 42_transactions.md), or the refusal of a position the command has no step at (log 12). -/

namespace Sys2Proof.Machine

/-- Has the command a step at this position? The positions of `posFits`, at any burst index and also at a post-check of SEND_BYTE. -/
def hasStep (i : Instr) (p : Pos) : Bool :=
  match i with
  | .setBitrate _ => match p with | .setPs => true | .setBr => true | .finish => true | _ => false
  | .init => match p with | .setPs => true | .setBr => true | .enable => true | .finish => true | _ => false
  | .sendStart => match p with | .start _ => true | .finish => true | _ => false
  | .sendRepeatedStart => match p with | .repeatedStart _ => true | .finish => true | _ => false
  | .sendStop => match p with | .stop _ => true | .finish => true | _ => false
  | .sendByte _ => match p with | .byte _ => true | .finish => true | _ => false
  | .sendWriteAddress _ => match p with | .writeAddress _ => true | .finish => true | _ => false
  | .sendReadAddress _ => match p with | .readAddress _ => true | .finish => true | _ => false
  | .sendData _ => match p with | .data _ _ => true | .finish => true | _ => false
  | .receiveByte _ => match p with | .receive _ _ => true | .finish => true | _ => false
  | .getReceivedByte => match p with | .readDr => true | .finish => true | _ => false
  | .getStatus => match p with | .readSr => true | .finish => true | _ => false
  | .readRegister _ _ => match p with | .receive _ _ => true | .readDr => true | _ => posReading p
  | .readRegisters _ _ _ => match p with | .receive _ _ => true | .storeBuf _ => true | _ => posReading p
  | .writeRegister _ _ _ => match p with | .data _ _ => true | _ => posOpening p
  | .writeRegisters _ _ _ => match p with | .data _ _ => true | .loadBuf _ => true | _ => posOpening p

theorem hasStep_of_posFits {i : Instr} {p : Pos} (h : posFits i p = true) : hasStep i p = true := by
  cases i <;> cases p <;> simp_all [posFits, hasStep, posReading, posOpening]

/-- The running WRITE_REGISTERS is about to read the BUF byte `k`, which nothing has written since reset. -/
def ReadsUnwritten (i : Instr) (q : Seq) (s : State) (k : Nat) : Prop :=
  (∃ a r n, i = .writeRegisters a r n) ∧ q.pos = .loadBuf k ∧ s.buf.read k = none

/-- Everything exec can answer while a command runs. -/
theorem exec_answers {i : Instr} {s : State} {q : Seq} (hq : s.seq = some q) :
    (hasStep i q.pos = true ∧ (∀ k, ¬ ReadsUnwritten i q s k) ∧ ∃ t, exec i s = .next t) ∨
    (hasStep i q.pos = true ∧ ∃ k, ReadsUnwritten i q s k ∧ exec i s = .fault (.bufUnwritten k)) ∨
    (hasStep i q.pos = false ∧ (∀ k, ¬ ReadsUnwritten i q s k) ∧ exec i s = .refused .noSuchPosition) := by
  obtain ⟨cur, pos, held⟩ := q
  cases i <;>
    simp only [exec, execSetBitrate, execInit, execSendStart, execSendRepeatedStart, execSendStop, execSendByte,
      execSendWriteAddress, execSendReadAddress, execSendData, execReceiveByte, execGetReceivedByte, execGetStatus,
      execReadRegister, execReadRegisters, execWriteRegister, execWriteRegisters, command_running hq] <;>
    cases pos
  case writeRegisters.loadBuf k => cases hb : s.buf.read k <;> simp [hasStep, ReadsUnwritten, hb]
  all_goals simp [hasStep, posReading, posOpening, ReadsUnwritten, call_answers, doCall]

/-- A command that answers a next state has a step where it stands. -/
theorem hasStep_of_next {i : Instr} {s t : State} {q : Seq} (hq : s.seq = some q) (h : exec i s = .next t) :
    hasStep i q.pos = true := by
  rcases exec_answers (i := i) hq with ⟨hs, -⟩ | ⟨hs, -⟩ | ⟨-, -, hr⟩
  · exact hs
  · exact hs
  · simp [h] at hr

/-- The step at `finish` (R70 of 30_encoding.md; R107 of 42_transactions.md). -/
theorem exec_finish (i : Instr) {s : State} {q : Seq} (hq : s.seq = some q) (hf : q.pos = .finish) :
    exec i s = .next (finishOf i s) := by
  obtain ⟨cur, pos, held⟩ := q
  obtain rfl : pos = .finish := hf
  cases i <;>
    simp only [exec, execSetBitrate, execInit, execSendStart, execSendRepeatedStart, execSendStop, execSendByte,
      execSendWriteAddress, execSendReadAddress, execSendData, execReceiveByte, execGetReceivedByte, execGetStatus,
      execReadRegister, execReadRegisters, execWriteRegister, execWriteRegisters, command_running hq] <;>
    rfl

/-- Settles O39: with no command running exec is acceptance or rejection; with one, `exec_answers` says which of its answers stands. -/
theorem commandsStopOnlyOnAnUnwrittenByte : Obligations.CommandsStopOnlyOnAnUnwrittenByte := by
  unfold Obligations.CommandsStopOnlyOnAnUnwrittenByte
  intro i s unwritten
  cases hq : s.seq with
  | none =>
    have hidle : ∃ t, exec i s = .next t := by
      rw [exec_idle hq]
      split <;> exact ⟨_, rfl⟩
    obtain ⟨t, ht⟩ := hidle
    have hnone : ∀ k, ¬ unwritten k := fun k ⟨_, _, _, _, _, hq', _⟩ => by simp [hq] at hq'
    exact ⟨fun _ _ => ⟨t, ht⟩, fun f => by simp [ht, hnone]⟩
  | some q =>
    have hu : ∀ k, unwritten k ↔ ReadsUnwritten i q s k := fun k =>
      ⟨fun ⟨a, r, n, q', hi, hq', hp, hr⟩ => by
          obtain rfl : q = q' := Option.some.inj (hq.symm.trans hq')
          exact ⟨⟨a, r, n, hi⟩, hp, hr⟩,
        fun ⟨⟨a, r, n, hi⟩, hp, hr⟩ => ⟨a, r, n, q, hi, hq, hp, hr⟩⟩
    simp only [hu]
    rcases exec_answers (i := i) hq with ⟨-, hn, t, ht⟩ | ⟨-, k, hk, hf⟩ | ⟨hs, hn, hr⟩
    · exact ⟨fun _ _ => ⟨t, ht⟩, fun f => by simp [ht, hn]⟩
    · refine ⟨fun _ hn => absurd ⟨k, hk⟩ hn, fun f => ?_⟩
      rw [hf]
      constructor
      · intro h; injection h with h; exact ⟨k, hk, h.symm⟩
      · rintro ⟨k', ⟨-, hp, -⟩, rfl⟩
        obtain ⟨-, hp', -⟩ := hk
        rw [Pos.loadBuf.inj (hp'.symm.trans hp)]
    · refine ⟨fun h _ => ?_, fun f => by simp [hr, hn]⟩
      rcases h with h | ⟨q', hq', hfits⟩
      · cases h
      · obtain rfl : q = q' := Option.some.inj hq'
        simp [hasStep_of_posFits hfits] at hs

end Sys2Proof.Machine
end

section
/-! Invariants of every step: a predicate that the model's own fields do not touch, and that exec, the bus agent, the host and reset each
keep, is kept by the machine. The host's part is said field by field (R45 to R57 of 20_memory.md). -/

namespace Sys2Proof.Machine

/-- The host changes none of these. -/
theorem HostEffect.block_eq {a : HostAccess} {u t : State} (h : HostEffect a u t) :
    t.cfg = u.cfg ∧ t.cr = u.cr ∧ t.sr = u.sr ∧ t.pend = u.pend ∧ t.log = u.log ∧ t.busev = u.busev := by
  cases h <;> simp

/-- The host leaves CUR and ACC, or it submits a command that is accepted (R69 of 30_encoding.md). -/
theorem HostEffect.seq_acc {a : HostAccess} {u t : State} (h : HostEffect a u t) :
    (t.seq = u.seq ∧ t.acc = u.acc) ∨
    (u.seq = none ∧ t.acc = Acc.zero ∧ ∃ i : Instr, i.wf = true ∧ t.seq = some { cur := encode i, pos := firstPos i, held := 0#8 }) := by
  cases h with
  | accept w i hb hd hw => exact .inr ⟨by simpa [State.busy] using hb, rfl, i, hw, rfl⟩
  | keep | read | fault | latch | clear | buffer | drop | illegal | badArgument => exact .inl ⟨rfl, rfl⟩

/-- The host leaves BUF or writes one byte of it (R37 of 10_state.md). -/
theorem HostEffect.buf_cases {a : HostAccess} {u t : State} (h : HostEffect a u t) :
    t.buf = u.buf ∨ ∃ i b, i < 256 ∧ t.buf = u.buf.write i b := by
  cases h with
  | buffer i b f k hi hf => exact .inr ⟨i, b, hi, rfl⟩
  | keep | read | fault | latch | clear | drop | illegal | accept | badArgument => exact .inl rfl

/-- What each agent's move keeps, every step of the machine keeps. -/
theorem step_keeps {I : State → Prop}
    (hown : ∀ s ms k, I s → I { s with inputs := ms, tick := k })
    (hexec : ∀ i s t q, I s → s.seq = some q → decode q.cur = .ok i → exec i s = .next t → I t)
    (hbus : ∀ c b s, I s → I (busStep c b s))
    (hhost : ∀ a s t, I s → HostEffect a s t → I t)
    (hreset : ∀ s, I s → I s.resetBlock)
    {s t : State} (hs : I s) (h : step s = .next t) : I t := by
  obtain ⟨-, ms, k, he⟩ := step_effect h
  have hu := hown s ms k hs
  cases he with
  | wait => exact hu
  | exec q i t hq hd h => exact hexec i _ t q hu hq hd h
  | bus c b => exact hbus c b _ hu
  | host a rest t hi h => exact hhost a _ t hu h
  | reset => exact hreset _ hu

end Sys2Proof.Machine
end

section
/-! BUF and the position: canonical form, and CUR an accepted command at one of its own positions (R37, R38 of 10_state.md; R69 of
30_encoding.md). -/

namespace Sys2Proof.Machine

/-- What `positionFits` asks of a running command. -/
theorem positionFits_iff {s : State} {q : Seq} {i : Instr} (hq : s.seq = some q) (hd : decode q.cur = .ok i) :
    s.positionFits = true ↔ i.wf = true ∧ posFits i q.pos = true := by
  simp [State.positionFits, hq, hd]

theorem positionFits_of_seq_eq {s t : State} (h : t.seq = s.seq) : t.positionFits = s.positionFits := by
  simp only [State.positionFits, h]

/-- An accepted command stands at its first position, which is its own. -/
theorem positionFits_accepted {t : State} {i : Instr} (hw : i.wf = true)
    (h : t.seq = some { cur := encode i, pos := firstPos i, held := 0#8 }) : t.positionFits = true :=
  (positionFits_iff h (decode_encode i)).mpr ⟨hw, (firstPos_fits i).1⟩

theorem exec_keeps_positionFits {i : Instr} {s t : State} {q : Seq} (hf : s.positionFits = true) (hq : s.seq = some q)
    (hd : decode q.cur = .ok i) (h : exec i s = .next t) : t.positionFits = true := by
  obtain ⟨hw, hp⟩ := (positionFits_iff hq hd).mp hf
  by_cases hfin : q.pos = .finish
  · obtain rfl : finishOf i s = t := by simpa [exec_finish i hq hfin] using h
    simp [State.positionFits]
  · obtain ⟨q', hq', hcur, hfits, -, -⟩ := exec_follows h hq hfin
    exact (positionFits_iff hq' (hcur ▸ hd)).mpr ⟨hw, hfits hp⟩

/-- exec leaves BUF, or READ_REGISTERS stores DR at the index its position names (R110 of 42_transactions.md). -/
theorem exec_buf_cases {i : Instr} {s t : State} (h : exec i s = .next t) :
    t.buf = s.buf ∨ ∃ q k, s.seq = some q ∧ q.pos = .storeBuf k ∧ t.buf = s.buf.write k s.dr := by
  rcases exec_cases h with ⟨-, -, rfl⟩ | ⟨-, -, rfl⟩ | ⟨q, -, -, rfl⟩ | ⟨q, hq, u, a, p, hd, he, -, rfl⟩
  · exact .inl rfl
  · exact .inl rfl
  · exact .inl (by simp)
  · cases he with
    | store k hk => exact .inr ⟨q, k, hq, hk, rfl⟩
    | keep | issue | load | timeout | check | stopTimeout | stopDone | toggleOff | toggleOn | enable | setPs | setBr =>
      exact .inl (by simp [landed])

/-- A store position that fits has its index inside BUF. -/
theorem storeBuf_index_lt {i : Instr} {k : Nat} (h : posFits i (.storeBuf k) = true) : k < 256 := by
  cases i with
  | readRegisters a r n =>
    have hk : k < n.toNat := by simpa [posFits] using h
    have := n.isLt
    omega
  | setBitrate | init | sendStart | sendRepeatedStart | sendStop | sendByte | sendWriteAddress | sendReadAddress | sendData | receiveByte
  | getReceivedByte | getStatus | readRegister | writeRegister | writeRegisters => cases h

theorem exec_keeps_buf_wf {i : Instr} {s t : State} {q : Seq} (hf : s.positionFits = true) (hb : s.buf.wf = true)
    (hq : s.seq = some q) (hd : decode q.cur = .ok i) (h : exec i s = .next t) : t.buf.wf = true := by
  rcases exec_buf_cases h with ht | ⟨q', k, hq', hk, ht⟩
  · rw [ht]; exact hb
  · obtain rfl : q = q' := Option.some.inj (hq.symm.trans hq')
    obtain ⟨-, hp⟩ := (positionFits_iff hq hd).mp hf
    rw [ht]
    exact Memory.write_wf _ hb (storeBuf_index_lt (hk ▸ hp))

theorem HostEffect.keeps_positionFits {a : HostAccess} {u t : State} (h : HostEffect a u t) (hf : u.positionFits = true) :
    t.positionFits = true := by
  rcases h.seq_acc with ⟨hs, -⟩ | ⟨-, -, i, hw, hs⟩
  · rw [positionFits_of_seq_eq hs]; exact hf
  · exact positionFits_accepted hw hs

theorem HostEffect.keeps_buf_wf {a : HostAccess} {u t : State} (h : HostEffect a u t) (hb : u.buf.wf = true) :
    t.buf.wf = true := by
  rcases h.buf_cases with ht | ⟨i, b, hi, ht⟩
  · rw [ht]; exact hb
  · rw [ht]; exact Memory.write_wf b hb hi

/-- Every step of the machine keeps both (log 8 for what is not admitted). -/
theorem step_keeps_position_and_buf {s t : State} (hs : s.positionFits = true ∧ s.buf.wf = true) (h : step s = .next t) :
    t.positionFits = true ∧ t.buf.wf = true := by
  refine step_keeps (I := fun s => s.positionFits = true ∧ s.buf.wf = true) ?_ ?_ ?_ ?_ ?_ hs h
  · intro s ms k hs; exact hs
  · intro i s t q ⟨hf, hb⟩ hq hd h
    exact ⟨exec_keeps_positionFits hf hq hd h, exec_keeps_buf_wf hf hb hq hd h⟩
  · intro c b s ⟨hf, hb⟩
    exact ⟨by rw [positionFits_of_seq_eq (busStep_seq c b s)]; exact hf, by simpa using hb⟩
  · intro a s t ⟨hf, hb⟩ h
    exact ⟨h.keeps_positionFits hf, h.keeps_buf_wf hb⟩
  · intro s _
    exact ⟨rfl, rfl⟩

/-- Where the position fits, the sequencer's turn refuses nothing. -/
theorem sequencerTurn_ne_refused {s : State} (hf : s.positionFits = true) (r : Refusal) : sequencerTurn s ≠ .refused r := by
  cases hq : s.seq with
  | none => simp [sequencerTurn_idle hq]
  | some q =>
    cases hd : decode q.cur with
    | error e => simp [State.positionFits, hq, hd] at hf
    | ok i =>
      obtain ⟨-, hp⟩ := (positionFits_iff hq hd).mp hf
      rw [sequencerTurn_running hq hd]
      rcases exec_answers (i := i) hq with ⟨-, -, t, ht⟩ | ⟨-, k, -, hk⟩ | ⟨hs, -, -⟩
      · simp [ht]
      · simp [hk]
      · simp [hasStep_of_posFits hp] at hs

theorem turn_ne_refused {s : State} (hf : s.positionFits = true) (r : Refusal) : turn s ≠ .refused r := by
  unfold turn
  split
  next m rest hi =>
    cases m with
    | sequencer => exact sequencerTurn_ne_refused (by exact hf) r
    | bus c b => simp [applyMove]
    | host a => exact hostAccess_ne_refused a _ r
    | reset => simp [applyMove]
  next hi =>
    simp only [freeTurn]
    repeat' split
    · simp
    · exact sequencerTurn_ne_refused (by exact hf) r
    · exact sequencerTurn_ne_refused hf r

/-- Settles O56: `step_keeps` for both parts, with the decoder's round trip at an acceptance; and no turn refuses where the position
fits. -/
theorem positionAndBufferStayWellFormed : Obligations.PositionAndBufferStayWellFormed := by
  unfold Obligations.PositionAndBufferStayWellFormed
  intro s hf hb
  refine ⟨fun t h => step_keeps_position_and_buf ⟨hf, hb⟩ h, ?_⟩
  unfold step
  split
  · exact turn_ne_refused hf _
  · simp

end Sys2Proof.Machine
end

section
/-! CR and PEND (R20 to R26, R39 of 10_state.md; R83, R91 of 41_primitives.md): what each effect of a step and each completion of the bus
agent keeps of their coherence. -/

namespace Sys2Proof.Machine

/-- CR and PEND agree, the toggle apart: the first three parts of `ControllerInv`. -/
structure Coherent (c : Cr) (p : Option Pending) : Prop where
  pendingEnabled : p.isSome = true → c.en = true
  intIdle : c.int = true → p = none
  stoIsStop : c.sto = true ↔ ∃ b, p = some { act := .stop, byte := b }

theorem State.ControllerInv.coherent {s : State} (h : s.ControllerInv) : Coherent s.cr s.pend :=
  ⟨h.pendingEnabled, h.intIdle, h.stoIsStop⟩

theorem Coherent.controllerInv {s : State} (h : Coherent s.cr s.pend) (ht : s.toggling = true → s.cr.en = false) : s.ControllerInv :=
  ⟨h.pendingEnabled, h.intIdle, h.stoIsStop, ht⟩

theorem toggling_iff {s : State} : s.toggling = true ↔ ∃ q, s.seq = some q ∧ q.pos = .toggle .on := by
  cases hq : s.seq <;> simp [State.toggling, hq]

/-- Nothing is pending on a disabled controller. -/
theorem Coherent.pend_of_disabled {c : Cr} {p : Option Pending} (h : Coherent c p) (he : c.en = false) : p = none := by
  cases p with
  | none => rfl
  | some p => simp [h.pendingEnabled rfl] at he

/-- With nothing pending and no STO, every EN and INT agree with PEND. -/
theorem Coherent.of_idle {c : Cr} (h : c.sto = false) : Coherent c none where
  pendingEnabled := by simp
  intIdle := by simp
  stoIsStop := by simp [h]

/-- An issue makes CR and PEND agree, whatever they were (R83). -/
theorem issueIn_coherent (ph : Phase) (a : Action) (s : State) : Coherent (issueIn ph a s).cr (issueIn ph a s).pend where
  pendingEnabled := by simp
  intIdle := by simp
  stoIsStop := by simp

/-- INIT's enable (R80 of 40_bitrate.md). -/
theorem Coherent.enable {c : Cr} {p : Option Pending} (h : Coherent c p) : Coherent { c with en := true } p where
  pendingEnabled := fun _ => rfl
  intIdle := h.intIdle
  stoIsStop := h.stoIsStop

/-- INIT's write of CR as a whole state: it never disables. -/
theorem writeCr_enablePattern (s : State) : writeCr (enablePattern s.cr) s = { s with cr := { s.cr with en := true } } := by
  rw [writeCr_plain (.inr (enablePattern_en s.cr)), written_enablePattern]

/-- The toggle's first write leaves nothing pending and EN = 0 (R26, R91). -/
theorem writeCr_off {s : State} (h : Coherent s.cr s.pend) :
    (writeCr 0x00#8 s).pend = none ∧ (writeCr 0x00#8 s).cr.sto = false ∧ (writeCr 0x00#8 s).cr.en = false := by
  cases he : s.cr.en with
  | true => rw [writeCr_disabling he rfl]; exact ⟨rfl, rfl, rfl⟩
  | false => rw [writeCr_plain (.inl he)]; exact ⟨h.pend_of_disabled he, rfl, rfl⟩

/-- The toggle's second write never disables (R91). -/
theorem writeCr_on (s : State) :
    writeCr 0x04#8 s = { s with cr := { int := s.cr.int, ea := false, sta := false, sto := false, en := true } } :=
  writeCr_plain (.inr rfl)

/-- Every effect of a step of the sequencer keeps CR and PEND in agreement. -/
theorem SeqEffect.keeps_coherent {s u : State} {p : Pos} (he : SeqEffect s p u) (h : Coherent s.cr s.pend)
    (ht : p = .toggle .on → s.cr.en = false) : Coherent u.cr u.pend := by
  cases he with
  | issue ph a => exact issueIn_coherent ph a s
  | toggleOff =>
    obtain ⟨hp, hs, -⟩ := writeCr_off h
    rw [hp]
    exact .of_idle hs
  | toggleOn hp =>
    rw [writeCr_on]
    change Coherent _ s.pend
    rw [h.pend_of_disabled (ht hp)]
    exact .of_idle rfl
  | enable => rw [writeCr_enablePattern]; exact h.enable
  | check => simpa using h
  | keep | load | timeout | stopTimeout | stopDone | setPs | setBr | store => exact h

/-- A step that stands between the toggle's writes afterwards made the first of them, which clears EN. -/
theorem SeqEffect.toggleOff_disabled {s u : State} {p : Pos} (he : SeqEffect s p u) (h : Coherent s.cr s.pend) (hp : p = .toggle .off) :
    u.cr.en = false := by
  subst hp
  cases he with
  | toggleOff => exact (writeCr_off h).2.2
  | keep hk => exact absurd rfl hk
  | issue ph a h => cases h
  | load b h => cases h
  | timeout ph h => cases h
  | check c ph e m h => cases h
  | stopTimeout h | stopDone k h | toggleOn h | enable h | setPs k h | setBr k h | store k h => cases h

theorem exec_keeps_controllerInv {i : Instr} {s t : State} {q : Seq} (hi : s.ControllerInv) (hq : s.seq = some q)
    (h : exec i s = .next t) : t.ControllerInv := by
  by_cases hf : q.pos = .finish
  · obtain rfl : finishOf i s = t := by simpa [exec_finish i hq hf] using h
    refine Coherent.controllerInv (by simpa using hi.coherent) fun ht => ?_
    simp [toggling_iff] at ht
  · obtain ⟨q', hq', -, -, -, htog⟩ := exec_follows h hq hf
    rcases exec_running h hq with ⟨hf', -⟩ | ⟨u, a, p, hd, he, -, rfl⟩
    · exact absurd hf' hf
    · have hon : q.pos = .toggle .on → s.cr.en = false := fun hp => hi.togglingDisabled (toggling_iff.mpr ⟨q, hq, hp⟩)
      refine Coherent.controllerInv (he.keeps_coherent hi.coherent hon) fun ht => ?_
      obtain ⟨q'', hq'', hp''⟩ := toggling_iff.mp ht
      obtain rfl : q' = q'' := Option.some.inj (hq'.symm.trans hq'')
      exact he.toggleOff_disabled hi.coherent (htog hp'')

/-- The bus agent's step (R42) keeps CR and PEND in agreement and leaves EN. -/
theorem busStep_keeps_coherent {c : Code} {b : Byte} {s : State} (h : Coherent s.cr s.pend) :
    Coherent (busStep c b s).cr (busStep c b s).pend ∧ (busStep c b s).cr.en = s.cr.en := by
  rcases busStep_cases c b s with ⟨-, ht⟩ | ⟨p, -, -, -, ht⟩ | ⟨p, -, hp, ha, ht⟩ <;> rw [ht]
  · exact ⟨h, rfl⟩
  · exact ⟨.of_idle rfl, rfl⟩
  · have hsto : s.cr.sto = false := by
      by_contra hs
      obtain ⟨b', hb'⟩ := h.stoIsStop.mp (by simpa using hs)
      obtain rfl : p = _ := Option.some.inj (hp.symm.trans hb')
      exact ha rfl
    exact ⟨.of_idle hsto, rfl⟩

theorem busStep_keeps_controllerInv {c : Code} {b : Byte} {s : State} (h : s.ControllerInv) : (busStep c b s).ControllerInv := by
  obtain ⟨hc, hen⟩ := busStep_keeps_coherent (c := c) (b := b) h.coherent
  refine hc.controllerInv fun ht => ?_
  rw [hen]
  exact h.togglingDisabled (by simpa [State.toggling] using ht)

/-- The host changes neither CR nor PEND, and a command it submits does not begin between the toggle's writes. -/
theorem HostEffect.keeps_controllerInv {a : HostAccess} {u t : State} (h : HostEffect a u t) (hi : u.ControllerInv) :
    t.ControllerInv := by
  obtain ⟨-, hcr, -, hpend, -, -⟩ := h.block_eq
  have hc : Coherent t.cr t.pend := by rw [hcr, hpend]; exact hi.coherent
  refine hc.controllerInv fun ht => ?_
  obtain ⟨q, hq, hp⟩ := toggling_iff.mp ht
  rcases h.seq_acc with ⟨hs, -⟩ | ⟨-, -, i, -, hs⟩
  · rw [hcr]
    exact hi.togglingDisabled (toggling_iff.mpr ⟨q, hs ▸ hq, hp⟩)
  · obtain rfl : _ = q := Option.some.inj (hs.symm.trans hq)
    exact absurd hp (firstPos_fits i).2.2

/-- Reset leaves nothing pending and CR 0 (R44). -/
theorem resetWith_controllerInv (p : Params) : (State.resetWith p).ControllerInv :=
  Coherent.controllerInv (.of_idle rfl) fun _ => rfl

/-- Settles O57, by `step_keeps`: an issue, the toggle, INIT's enable and the bus agent's completions are all that write CR or PEND. -/
theorem controllerStaysCoherent : Obligations.ControllerStaysCoherent := by
  unfold Obligations.ControllerStaysCoherent
  intro s t hs h
  refine step_keeps (I := State.ControllerInv) ?_ ?_ ?_ ?_ ?_ hs h
  · intro s ms k h; exact ⟨h.1, h.2, h.3, h.4⟩
  · intro i s t q hi hq _ h; exact exec_keeps_controllerInv hi hq h
  · intro c b s hi; exact busStep_keeps_controllerInv hi
  · intro a s t hi h; exact h.keeps_controllerInv hi
  · intro s _; exact Coherent.controllerInv (.of_idle rfl) fun _ => rfl

end Sys2Proof.Machine
end

section
/-! ACC and the mode (R40 of 10_state.md; R85 to R87, R94 of 41_primitives.md; R103, R104 of 42_transactions.md; R115 of
60_exceptions.md): recording an error names it exactly when its flag is set, and what only HARDENED mode has is reached from HARDENED
steps only. -/

namespace Sys2Proof.Machine

/-- What `AccInv` says, of the mode and ACC alone. -/
structure AccOk (m : Mode) (a : Acc) : Prop where
  named : a.errKind = .none ↔ a.timeout = false ∧ a.mismatch = false
  notIllegal : a.illegal = false
  faithfulNotAborted : m = .faithful → a.aborted = false
  faithfulNoStopTimeout : m = .faithful → a.errKind ≠ .stopTimeout

theorem accInv_iff {s : State} : s.AccInv ↔ AccOk s.cfg.mode s.acc :=
  ⟨fun h => ⟨h.1, h.2, h.3, h.4⟩, fun h => ⟨h.1, h.2, h.3, h.4⟩⟩

theorem AccOk.zero (m : Mode) : AccOk m Acc.zero := ⟨by decide, rfl, fun _ => rfl, fun _ => by decide⟩

/-- The error named after `Err` (R115): the first stays. -/
theorem Acc.err_errKind (a : Acc) (k : ErrKind) (ph : ErrPhase) (st : Byte) :
    (a.err k ph st).errKind = if a.errKind = .none then k else a.errKind := by
  unfold Acc.err; split <;> rfl

@[simp] theorem Acc.err_timeout (a : Acc) (k : ErrKind) (ph : ErrPhase) (st : Byte) : (a.err k ph st).timeout = a.timeout := by
  unfold Acc.err; split <;> rfl
@[simp] theorem Acc.err_mismatch (a : Acc) (k : ErrKind) (ph : ErrPhase) (st : Byte) : (a.err k ph st).mismatch = a.mismatch := by
  unfold Acc.err; split <;> rfl
@[simp] theorem Acc.err_illegal (a : Acc) (k : ErrKind) (ph : ErrPhase) (st : Byte) : (a.err k ph st).illegal = a.illegal := by
  unfold Acc.err; split <;> rfl
@[simp] theorem Acc.err_aborted (a : Acc) (k : ErrKind) (ph : ErrPhase) (st : Byte) : (a.err k ph st).aborted = a.aborted := by
  unfold Acc.err; split <;> rfl

/-- An error recorded with one of its flags set: `flagged` is ACC with the flag, which its caller sets (R85, R86). -/
theorem AccOk.err {m : Mode} {a flagged : Acc} {k : ErrKind} (h : AccOk m a) (hk : k ≠ .none)
    (hs : m = .faithful → k ≠ .stopTimeout) (hflag : flagged.timeout = true ∨ flagged.mismatch = true)
    (hi : flagged.illegal = a.illegal) (hab : flagged.aborted = a.aborted) (hkind : flagged.errKind = a.errKind)
    (ph : ErrPhase) (st : Byte) : AccOk m (flagged.err k ph st) where
  named := by
    have hn : (flagged.err k ph st).errKind ≠ .none := by rw [Acc.err_errKind]; split <;> assumption
    simp only [hn, false_iff, Acc.err_timeout, Acc.err_mismatch]
    rcases hflag with hf | hf <;> simp [hf]
  notIllegal := by rw [Acc.err_illegal, hi]; exact h.notIllegal
  faithfulNotAborted := fun hm => by rw [Acc.err_aborted, hab]; exact h.faithfulNotAborted hm
  faithfulNoStopTimeout := fun hm => by
    rw [Acc.err_errKind, hkind]
    split
    · exact hs hm
    · exact h.faithfulNoStopTimeout hm

theorem classify_named (p : Params) (e st : Byte) : classify p e st ≠ .none ∧ classify p e st ≠ .stopTimeout := by
  unfold classify; split <;> decide

theorem hardened_iff {s : State} : s.hardened = true ↔ s.cfg.mode = .hardened := by
  simp [State.hardened]

theorem not_faithful_of_hardened {s : State} (h : s.hardened = true) : s.cfg.mode ≠ .faithful := by
  rw [hardened_iff.mp h]; decide

/-- What `modeFits` asks of a running command. -/
theorem modeFits_iff {s : State} {q : Seq} (hq : s.seq = some q) :
    s.modeFits = true ↔ (hardenedOnly q.pos = true → s.hardened = true) := by
  rw [hardened_iff]
  cases hh : hardenedOnly q.pos <;> simp [State.modeFits, hq, hh]

theorem modeFits_of_idle {s : State} (hq : s.seq = none) : s.modeFits = true := by
  simp [State.modeFits, hq]

/-- Every effect of a step of the sequencer keeps ACC consistent. -/
theorem SeqEffect.keeps_accOk {s u : State} {p : Pos} (he : SeqEffect s p u) (h : AccOk s.cfg.mode s.acc)
    (hm : hardenedOnly p = true → s.hardened = true) : AccOk s.cfg.mode u.acc := by
  cases he with
  | timeout ph => exact h.err (flagged := { s.acc with timeout := true }) (by decide) (fun _ => by decide) (.inl rfl) rfl rfl rfl ph _
  | stopTimeout hp =>
    subst hp
    exact h.err (flagged := { s.acc with timeout := true }) (by decide) (fun hf => absurd hf (not_faithful_of_hardened (hm rfl)))
      (.inl rfl) rfl rfl rfl _ _
  | check c ph e m =>
    rcases check_cases ph e m s with ⟨-, hc⟩ | ⟨-, hc⟩ <;> rw [hc]
    · exact h
    · obtain ⟨hk, hs⟩ := classify_named s.cfg e s.sr.status
      exact h.err (flagged := { s.acc with mismatch := true }) hk (fun _ => hs) (.inr rfl) rfl rfl rfl ph _
  | keep | issue | load | stopDone | toggleOff | toggleOn | enable | setPs | setBr | store => simpa using h

/-- VALUE is free, and ABORTED is set in HARDENED mode only (R104). -/
theorem AccTail.keeps_accOk {u : State} {a : Acc} (ht : AccTail u a) (h : AccOk u.cfg.mode u.acc) : AccOk u.cfg.mode a := by
  cases ht with
  | keep => exact h
  | value v => exact ⟨h.1, h.2, h.3, h.4⟩
  | abort hh => exact ⟨h.1, h.2, fun hf => absurd hf (not_faithful_of_hardened hh), h.4⟩

theorem exec_keeps_accInv {i : Instr} {s t : State} {q : Seq} (ha : s.AccInv) (hm : s.modeFits = true) (hq : s.seq = some q)
    (h : exec i s = .next t) : t.AccInv := by
  rw [accInv_iff] at ha ⊢
  rcases exec_running h hq with ⟨-, rfl⟩ | ⟨u, a, p, hd, he, htail, rfl⟩
  · simpa using ha
  · have hcfg : u.cfg = s.cfg := he.cfg_eq
    have hu : AccOk u.cfg.mode u.acc := by
      rw [hcfg]
      exact he.keeps_accOk ha ((modeFits_iff hq).mp hm)
    exact htail.keeps_accOk hu

theorem exec_keeps_modeFits {i : Instr} {s t : State} {q : Seq} (hq : s.seq = some q) (h : exec i s = .next t) :
    t.modeFits = true := by
  by_cases hf : q.pos = .finish
  · obtain rfl : finishOf i s = t := by simpa [exec_finish i hq hf] using h
    exact modeFits_of_idle (by simp)
  · obtain ⟨q', hq', -, -, hhard, -⟩ := exec_follows h hq hf
    refine (modeFits_iff hq').mpr fun hp => ?_
    rw [State.hardened, exec_cfg h]
    exact hhard hp

/-- The host leaves ACC, or it submits a command, whose ACC is zero and whose first step every mode has (R69). -/
theorem HostEffect.keeps_acc_and_mode {a : HostAccess} {u t : State} (h : HostEffect a u t) (ha : u.AccInv)
    (hm : u.modeFits = true) : t.AccInv ∧ t.modeFits = true := by
  obtain ⟨hcfg, -⟩ := h.block_eq
  rw [accInv_iff] at ha ⊢
  rcases h.seq_acc with ⟨hs, hacc⟩ | ⟨-, hacc, i, -, hs⟩
  · simp only [State.modeFits, hcfg, hacc, hs]
    exact ⟨ha, hm⟩
  · refine ⟨hacc ▸ AccOk.zero _, (modeFits_iff hs).mpr fun hp => ?_⟩
    simp [(firstPos_fits i).2.1] at hp

/-- Settles O58, by `step_keeps`: errors are recorded with their flag, and STOP_TIMEOUT and ABORTED at HARDENED steps only. -/
theorem accumulatorStaysConsistent : Obligations.AccumulatorStaysConsistent := by
  unfold Obligations.AccumulatorStaysConsistent
  intro s t ha hm h
  refine step_keeps (I := fun s => s.AccInv ∧ s.modeFits = true) ?_ ?_ ?_ ?_ ?_ ⟨ha, hm⟩ h
  · intro s ms k ⟨ha, hm⟩; exact ⟨⟨ha.1, ha.2, ha.3, ha.4⟩, hm⟩
  · intro i s t q ⟨ha, hm⟩ hq _ h
    exact ⟨exec_keeps_accInv ha hm hq h, exec_keeps_modeFits hq h⟩
  · intro c b s ⟨ha, hm⟩
    exact ⟨accInv_iff.mpr (by simpa using accInv_iff.mp ha), by simpa [State.modeFits] using hm⟩
  · intro a s t ⟨ha, hm⟩ h; exact h.keeps_acc_and_mode ha hm
  · intro s _; exact ⟨accInv_iff.mpr (AccOk.zero _), rfl⟩

end Sys2Proof.Machine
end

section
/-! The prescaler selection SR.PS (R30 of 10_state.md; R76 of 40_bitrate.md), and the invariants of the state after reset (R44). -/

namespace Sys2Proof.Machine

/-- The bands of R76. -/
theorem prescaler_encoding (khz : Nat) :
    (prescaler khz = 1 ∧ prescalerCode khz = 0#2) ∨ (prescaler khz = 4 ∧ prescalerCode khz = 1#2) ∨
      (prescaler khz = 16 ∧ prescalerCode khz = 2#2) := by
  unfold prescaler prescalerCode
  by_cases h8 : khz < 8
  · simp [h8]
  · by_cases h31 : khz < 31 <;> simp [h8, h31]

theorem prescalerCode_ne_three (khz : Nat) : prescalerCode khz ≠ 3#2 := by
  rcases prescaler_encoding khz with ⟨-, h⟩ | ⟨-, h⟩ | ⟨-, h⟩ <;> rw [h] <;> decide

/-- No write of CR changes the prescaler selection (R26). -/
@[simp] theorem writeCr_sr_ps (v : Byte) (s : State) : (writeCr v s).sr.ps = s.sr.ps := by
  unfold writeCr; split <;> rfl

@[simp] theorem busStep_sr_ps (c : Code) (b : Byte) (s : State) : (busStep c b s).sr.ps = s.sr.ps := by
  rcases busStep_cases c b s with ⟨-, h⟩ | ⟨p, -, -, -, h⟩ | ⟨p, -, -, -, h⟩ <;> rw [h] <;> rfl

/-- A step of the sequencer leaves BR and SR.PS but at the two bit-rate steps, and there SR.PS takes a code of the table. -/
theorem SeqEffect.br_ps_cases {s u : State} {p : Pos} (he : SeqEffect s p u) :
    (u.br = s.br ∧ u.sr.ps = s.sr.ps) ∨ (p = .setPs ∧ u.br = s.br ∧ ∃ k, u.sr.ps = prescalerCode k) ∨
      (p = .setBr ∧ u.sr.ps = s.sr.ps) := by
  cases he with
  | setPs k hp => exact .inr (.inl ⟨hp, rfl, k, rfl⟩)
  | setBr k hp => exact .inr (.inr ⟨hp, rfl⟩)
  | keep | issue | load | timeout | check | stopTimeout | stopDone | toggleOff | toggleOn | enable | store => exact .inl (by simp)

theorem exec_keeps_ps_ne_three {i : Instr} {s t : State} {q : Seq} (hs : s.sr.ps ≠ 3#2) (hq : s.seq = some q)
    (h : exec i s = .next t) : t.sr.ps ≠ 3#2 := by
  rcases exec_running h hq with ⟨-, rfl⟩ | ⟨u, a, p, hd, he, -, rfl⟩
  · simpa using hs
  · change u.sr.ps ≠ 3#2
    rcases he.br_ps_cases with ⟨-, hps⟩ | ⟨-, -, k, hps⟩ | ⟨-, hps⟩ <;> rw [hps]
    · exact hs
    · exact prescalerCode_ne_three k
    · exact hs

/-- Settles O59: SR.PS is written with `prescalerCode` only. -/
theorem prescalerThreeIsNeverWritten : Obligations.PrescalerThreeIsNeverWritten := by
  unfold Obligations.PrescalerThreeIsNeverWritten
  refine ⟨prescaler_encoding, fun s t h hs => ?_⟩
  refine step_keeps (I := fun s => s.sr.ps ≠ 3#2) ?_ ?_ ?_ ?_ ?_ hs h
  · intro s ms k hs; exact hs
  · intro i s t q hs hq _ h; exact exec_keeps_ps_ne_three hs hq h
  · intro c b s hs; simpa using hs
  · intro a s t hs h
    obtain ⟨-, -, hsr, -⟩ := h.block_eq
    rw [hsr]; exact hs
  · intro s _; change 0#2 ≠ 3#2; decide

/-- Settles O60: the reset state is idle, disabled and empty, for any parameters. -/
theorem resetMeetsEveryInvariant : Obligations.ResetMeetsEveryInvariant := by
  unfold Obligations.ResetMeetsEveryInvariant
  intro p
  refine ⟨rfl, rfl, resetWith_controllerInv p, accInv_iff.mpr (AccOk.zero _), rfl, ?_, rfl⟩
  change 0#2 ≠ 3#2
  decide

end Sys2Proof.Machine
end

section
/-! Frames of one step of a command: what each effect of a step leaves alone, field by field, and where a field that it writes can be
written. -/

namespace Sys2Proof.Machine

/-- No effect touches what belongs to the host, the histories of host faults, or the model's own fields. -/
theorem SeqEffect.host_items_eq {s u : State} {p : Pos} (he : SeqEffect s p u) :
    u.cmd = s.cmd ∧ u.latch = s.latch ∧ u.overrun = s.overrun ∧ u.hostFaults = s.hostFaults ∧ u.hostData = s.hostData ∧
      u.inputs = s.inputs ∧ u.tick = s.tick := by
  cases he <;> simp

/-- Settles O48, over the four things that exec can answer. -/
theorem commandsLeaveHostItemsAlone : Obligations.CommandsLeaveHostItemsAlone := by
  unfold Obligations.CommandsLeaveHostItemsAlone
  intro i s t h
  refine ⟨exec_cfg h, ?_⟩
  rcases exec_cases h with ⟨-, -, rfl⟩ | ⟨-, -, rfl⟩ | ⟨q, -, -, rfl⟩ | ⟨q, -, u, a, p, hd, he, -, rfl⟩
  · simp
  · simp
  · simp
  · exact he.host_items_eq

/-- READ_REGISTERS' store step (R110 of 42_transactions.md). -/
theorem exec_storeBuf_buf {addr7 : Addr7} {reg n : Byte} {s t : State} {q : Seq} {k : Nat} (hq : s.seq = some q) (hk : q.pos = .storeBuf k)
    (h : exec (.readRegisters addr7 reg n) s = .next t) : t.buf = s.buf.write k s.dr := by
  simp only [exec, execReadRegisters, command_running hq, hk] at h
  injection h with h
  rw [← h]
  rfl

/-- No other command has a store step. -/
theorem readRegisters_of_hasStep_storeBuf {i : Instr} {k : Nat} (h : hasStep i (.storeBuf k) = true) :
    ∃ addr7 reg n, i = .readRegisters addr7 reg n := by
  cases i with
  | readRegisters a r n => exact ⟨a, r, n, rfl⟩
  | setBitrate | init | sendStart | sendRepeatedStart | sendStop | sendByte | sendWriteAddress | sendReadAddress | sendData | receiveByte
  | getReceivedByte | getStatus | readRegister | writeRegister | writeRegisters => cases h

/-- Settles O49: the store step writes one byte of BUF, and a command that writes BUF stands at its store step. -/
theorem bufferChangesOnlyAtTheStoreStep : Obligations.BufferChangesOnlyAtTheStoreStep := by
  unfold Obligations.BufferChangesOnlyAtTheStoreStep
  intro i s t h
  constructor
  · rintro q k addr7 reg n hq hk rfl
    rw [exec_storeBuf_buf hq hk h]
    exact ⟨Memory.read_write_same .., fun a ha => Memory.read_write_other _ _ ha⟩
  · intro hno
    rcases exec_buf_cases h with ht | ⟨q, k, hq, hk, -⟩
    · exact ht
    · obtain ⟨a, r, n, hi⟩ := readRegisters_of_hasStep_storeBuf (hk ▸ hasStep_of_next hq h)
      exact absurd ⟨q, k, a, r, n, hq, hk, hi⟩ hno

/-- SET_BITRATE and INIT, and no other command, have the two bit-rate steps. -/
theorem bitrate_of_hasStep {i : Instr} {p : Pos} (hp : p = .setPs ∨ p = .setBr) (h : hasStep i p = true) :
    (∃ khz, i = .setBitrate khz) ∨ i = .init := by
  cases i with
  | setBitrate khz => exact .inl ⟨khz, rfl⟩
  | init => exact .inr rfl
  | sendStart | sendRepeatedStart | sendStop | sendByte | sendWriteAddress | sendReadAddress | sendData | receiveByte
  | getReceivedByte | getStatus | readRegister | readRegisters | writeRegister | writeRegisters =>
    rcases hp with rfl | rfl <;> cases h

/-- A step of SET_BITRATE or INIT, its finish apart, is one of the two bit-rate steps, INIT's enable, or leaves all but ACC alone. -/
theorem SeqEffect.of_bitrate {i : Instr} {s u : State} {p : Pos} (hi : (∃ khz, i = .setBitrate khz) ∨ i = .init)
    (hs : hasStep i p = true) (he : SeqEffect s p u) :
    u = s ∨ (∃ k, u = setPrescaler k s) ∨ (∃ k, u = setDivider k s) ∨
      (i = .init ∧ u = { s with cr := { s.cr with en := true } }) := by
  have hp : p = .setPs ∨ p = .setBr ∨ p = .finish ∨ (i = .init ∧ p = .enable) := by
    rcases hi with ⟨khz, rfl⟩ | rfl <;> cases p <;> simp_all [hasStep]
  cases he with
  | keep => exact .inl rfl
  | setPs k => exact .inr (.inl ⟨k, rfl⟩)
  | setBr k => exact .inr (.inr (.inl ⟨k, rfl⟩))
  | enable h => exact .inr (.inr (.inr ⟨by simpa [h] using hp, writeCr_enablePattern s⟩))
  | issue ph a h | load b h | timeout ph h | check c ph e m h => rcases hp with rfl | rfl | rfl | ⟨-, rfl⟩ <;> cases h
  | stopTimeout h | stopDone k h | toggleOff h | toggleOn h | store k h => simp [h] at hp

/-- Settles O50: BR and SR.PS are written at the two bit-rate steps, which only SET_BITRATE and INIT have, and these two have no step
besides but INIT's enable. -/
theorem onlyBitrateCommandsWriteBrAndPs : Obligations.OnlyBitrateCommandsWriteBrAndPs := by
  unfold Obligations.OnlyBitrateCommandsWriteBrAndPs
  intro i s t h
  rcases exec_cases h with ⟨-, -, rfl⟩ | ⟨-, -, rfl⟩ | ⟨q, hq, hf, rfl⟩ | ⟨q, hq, u, a, p, hd, he, -, rfl⟩
  · simp
  · simp
  · refine ⟨fun _ _ => by simp, fun hi => ?_, fun _ => by simp⟩
    rcases hi with ⟨khz, rfl⟩ | rfl <;> exact ⟨rfl, rfl, rfl, rfl, rfl, rfl, rfl⟩
  · have hs := hasStep_of_next hq h
    refine ⟨fun hno hni => ?_, fun hi => ?_, fun hi => ?_⟩
    · have hne : ¬ (q.pos = .setPs ∨ q.pos = .setBr) := fun hp =>
        (bitrate_of_hasStep hp hs).elim (fun ⟨khz, hk⟩ => hno khz hk) hni
      rcases he.br_ps_cases with hb | ⟨hp, -⟩ | ⟨hp, -⟩
      · exact hb
      · exact absurd (.inl hp) hne
      · exact absurd (.inr hp) hne
    · rcases he.of_bitrate hi hs with rfl | ⟨k, rfl⟩ | ⟨k, rfl⟩ | ⟨-, rfl⟩ <;> exact ⟨rfl, rfl, rfl, rfl, rfl, rfl, rfl⟩
    · rcases he.of_bitrate (.inl hi) hs with rfl | ⟨k, rfl⟩ | ⟨k, rfl⟩ | ⟨rfl, -⟩
      · rfl
      · rfl
      · rfl
      · obtain ⟨khz, hk⟩ := hi; cases hk

/-- The positions of `isLoad`, written out. -/
theorem isLoad_iff {p : Pos} : isLoad p = true ↔ p = .byte .load ∨ p = .writeAddress .load ∨ p = .readAddress .load ∨
    p = .subAddress .load ∨ ∃ k, p = .data k .load := by
  cases p with
  | byte r | writeAddress r | readAddress r | subAddress r | data k r => cases r <;> simp [isLoad]
  | setPs | setBr | enable | start r | repeatedStart r | stop r | receive k r | readDr | readSr | storeBuf k | loadBuf k | toggle r
  | finish => simp [isLoad]

/-- The positions of `isIssue`, written out. -/
theorem isIssue_iff {p : Pos} : isIssue p = true ↔ p = .start .issue ∨ p = .repeatedStart .issue ∨ p = .stop .issue ∨
    p = .byte .issue ∨ p = .writeAddress .issue ∨ p = .readAddress .issue ∨ p = .subAddress .issue ∨ (∃ k, p = .data k .issue) ∨
    ∃ k, p = .receive k .issue := by
  cases p with
  | byte r | writeAddress r | readAddress r | subAddress r | data k r | start r | repeatedStart r | stop r | receive k r =>
    cases r <;> simp [isIssue]
  | setPs | setBr | enable | readDr | readSr | storeBuf k | loadBuf k | toggle r | finish => simp [isIssue]

/-- An effect writes DR at a load only. -/
theorem SeqEffect.dr_cases {s u : State} {p : Pos} (he : SeqEffect s p u) : u.dr = s.dr ∨ isLoad p = true := by
  cases he with
  | load b h => exact .inr h
  | keep | issue | timeout | check | stopTimeout | stopDone | toggleOff | toggleOn | enable | setPs | setBr | store => simp

/-- An effect changes SR.CODE at the toggle's first write only (R26). -/
theorem SeqEffect.code_cases {s u : State} {p : Pos} (he : SeqEffect s p u) : u.sr.code = s.sr.code ∨ p = .toggle .off := by
  cases he with
  | toggleOff h => exact .inr h
  | toggleOn => rw [writeCr_on]; exact .inl rfl
  | enable => rw [writeCr_enablePattern]; exact .inl rfl
  | keep | issue | load | timeout | check | stopTimeout | stopDone | setPs | setBr | store => simp

/-- An effect writes CR, PEND or BUSEV at an issue, INIT's enable or the toggle only (R25). -/
theorem SeqEffect.controller_cases {s u : State} {p : Pos} (he : SeqEffect s p u) :
    (u.cr = s.cr ∧ u.pend = s.pend ∧ u.busev = s.busev) ∨ p = .enable ∨ p = .toggle .off ∨ p = .toggle .on ∨ isIssue p = true := by
  cases he with
  | issue ph a h => simp [h]
  | toggleOff h | toggleOn h | enable h => simp [h]
  | keep | load | timeout | check | stopTimeout | stopDone | setPs | setBr | store => simp

/-- Settles O51: acceptance, rejection and finish write none of these registers, and an effect writes them where the three lemmas on
effects say. -/
theorem controllerRegistersChangeOnlyAtTheirSteps : Obligations.ControllerRegistersChangeOnlyAtTheirSteps := by
  unfold Obligations.ControllerRegistersChangeOnlyAtTheirSteps
  intro i s t h
  rcases exec_cases h with ⟨-, -, rfl⟩ | ⟨-, -, rfl⟩ | ⟨q, -, -, rfl⟩ | ⟨q, hq, u, a, p, hd, he, -, rfl⟩
  · simp
  · simp
  · simp
  · refine ⟨fun hdr => ⟨q, hq, ?_⟩, fun hcode => ⟨q, hq, ?_⟩, fun hcr => ⟨q, hq, ?_⟩⟩
    · exact isLoad_iff.mp (he.dr_cases.resolve_left hdr)
    · exact he.code_cases.resolve_left hcode
    · rw [← isIssue_iff]
      refine he.controller_cases.resolve_left fun ⟨h1, h2, h3⟩ => ?_
      rcases hcr with hc | hc | hc
      · exact hc h1
      · exact hc h2
      · exact hc h3

/-- SET_BITRATE 0 is the one command that the argument check rejects (R69). -/
theorem wf_eq_false_iff {i : Instr} : i.wf = false ↔ i = .setBitrate 0#16 := by
  cases i <;> simp [Instr.wf]

theorem SeqEffect.result_eq {s u : State} {p : Pos} (he : SeqEffect s p u) : u.result = s.result := by
  cases he <;> simp

/-- A step of a running command that is not its finish is a landing. -/
theorem exec_landing {i : Instr} {s t : State} {q : Seq} (h : exec i s = .next t) (hq : s.seq = some q) (hf : q.pos ≠ .finish) :
    Landing s q t :=
  (exec_running h hq).resolve_left fun ⟨hf', _⟩ => hf hf'

/-- Settles O52: the finish is `finishOf`, a landing keeps RESULT and CUR, and an acceptance keeps RESULT. -/
theorem resultChangesOnlyAtFinishOrRejection : Obligations.ResultChangesOnlyAtFinishOrRejection := by
  unfold Obligations.ResultChangesOnlyAtFinishOrRejection
  intro i s t h
  refine ⟨fun q hq hf => ?_, fun q hq hf => ?_, fun hq hi => ?_⟩
  · obtain rfl : finishOf i s = t := by simpa [exec_finish i hq hf] using h
    unfold finishOf
    split <;> rfl
  · obtain ⟨u, a, p, hd, he, -, rfl⟩ := exec_landing h hq hf
    exact ⟨he.result_eq, _, rfl, rfl⟩
  · have hw : i.wf = true := by
      by_contra hw
      exact hi (wf_eq_false_iff.mp (by simpa using hw))
    obtain rfl : accept i (firstPos i) s = t := by simpa [exec_idle hq, hw] using h
    rfl

end Sys2Proof.Machine
end

section
/-! Histories and the running command along every step of the machine (R38, R41 of 10_state.md; R117 of 60_exceptions.md). -/

namespace Sys2Proof.Machine

/-- The events a sequencer step can append: none of them is a completion (R42: only the bus agent completes). -/
def NoCompletion (ev : List BusEvent) : Prop := ∀ e ∈ ev, ∀ a st r, e ≠ .completed a st r

/-- A write of CR appends `Disabled` or nothing (R26). -/
theorem writeCr_busev (v : Byte) (s : State) : (writeCr v s).busev = s.busev ∨ (writeCr v s).busev = s.busev ++ [.disabled] := by
  unfold writeCr
  split
  · exact .inr rfl
  · exact .inl rfl

theorem issueEvents_noCompletion (a : Action) (s : State) : NoCompletion (issueEvents a s) := by
  unfold issueEvents
  intro e he
  cases hp : s.pend <;> simp [hp] at he
  · simp [he]
  · rcases he with rfl | rfl <;> simp

theorem SeqEffect.busev_grows {s u : State} {p : Pos} (he : SeqEffect s p u) : ∃ ev, u.busev = s.busev ++ ev ∧ NoCompletion ev := by
  have hcr : ∀ v, ∃ ev, (writeCr v s).busev = s.busev ++ ev ∧ NoCompletion ev := fun v => by
    rcases writeCr_busev v s with h | h
    · exact ⟨[], by simpa using h, by simp [NoCompletion]⟩
    · exact ⟨[.disabled], h, by simp [NoCompletion]⟩
  cases he with
  | issue ph a => exact ⟨_, issueIn_busev ph a s, issueEvents_noCompletion a s⟩
  | toggleOff => exact hcr _
  | toggleOn => exact hcr _
  | enable => exact hcr _
  | keep | load | timeout | check | stopTimeout | stopDone | setPs | setBr | store => exact ⟨[], by simp [NoCompletion]⟩

/-- A step of the sequencer appends no completion. -/
theorem exec_busev_grows {i : Instr} {s t : State} (h : exec i s = .next t) : ∃ ev, t.busev = s.busev ++ ev ∧ NoCompletion ev := by
  rcases exec_cases h with ⟨-, -, rfl⟩ | ⟨-, -, rfl⟩ | ⟨q, -, -, rfl⟩ | ⟨q, -, u, a, p, hd, he, -, rfl⟩
  · exact ⟨[], by simp [NoCompletion]⟩
  · exact ⟨[], by simp [NoCompletion]⟩
  · exact ⟨[], by simp [NoCompletion]⟩
  · exact he.busev_grows

/-- An effect logs nothing, or one record of the status at a post-check (R117). -/
theorem SeqEffect.log_cases {s u : State} {p : Pos} (he : SeqEffect s p u) :
    u.log = s.log ∨ ((∃ e : LogEntry, u.log = s.log ++ [e] ∧ e.got = s.sr.status) ∧ ∃ site, checkSite s.cfg p = some site) := by
  cases he with
  | check c ph e m h =>
    rcases check_cases ph e m s with ⟨-, hc⟩ | ⟨-, hc⟩ <;> rw [hc]
    · exact .inl rfl
    · exact .inr ⟨⟨_, rfl, rfl⟩, _, h⟩
  | keep | issue | load | timeout | stopTimeout | stopDone | toggleOff | toggleOn | enable | setPs | setBr | store =>
    exact .inl (by simp)

theorem exec_log_cases {i : Instr} {s t : State} (h : exec i s = .next t) :
    t.log = s.log ∨ ((∃ e : LogEntry, t.log = s.log ++ [e] ∧ e.got = s.sr.status) ∧
      ∃ q site, s.seq = some q ∧ checkSite s.cfg q.pos = some site) := by
  rcases exec_cases h with ⟨-, -, rfl⟩ | ⟨-, -, rfl⟩ | ⟨q, -, -, rfl⟩ | ⟨q, hq, u, a, p, hd, he, -, rfl⟩
  · exact .inl rfl
  · exact .inl rfl
  · exact .inl (by simp)
  · exact he.log_cases.imp_right fun ⟨he, site, hs⟩ => ⟨he, q, site, hq, hs⟩

/-- The bus agent appends to BUSEV (R42). -/
theorem busStep_busev_grows (c : Code) (b : Byte) (s : State) : s.busev <+: (busStep c b s).busev := by
  rcases busStep_cases c b s with ⟨-, h⟩ | ⟨p, -, -, -, h⟩ | ⟨p, -, -, -, h⟩ <;> rw [h]
  · exact List.prefix_append _ _
  · exact List.prefix_append _ _

/-- Settles O53: over the agents that can move in a step which is no reset. -/
theorem historiesOnlyGrow : Obligations.HistoriesOnlyGrow := by
  unfold Obligations.HistoriesOnlyGrow
  refine ⟨fun s t h hno => ?_, fun i s t h hne => (exec_log_cases h).resolve_left hne⟩
  obtain ⟨-, ms, k, he⟩ := step_effect h
  cases he with
  | wait => exact ⟨List.prefix_refl _, List.prefix_refl _⟩
  | exec q i t hq hd hx =>
    obtain ⟨ev, hev, -⟩ := exec_busev_grows hx
    refine ⟨?_, ⟨ev, hev.symm⟩⟩
    rcases exec_log_cases hx with hl | ⟨⟨e, hl, -⟩, -⟩ <;> rw [hl]
    exact List.prefix_append _ _
  | bus c b =>
    exact ⟨by simp, busStep_busev_grows c b { s with inputs := ms, tick := k }⟩
  | host a rest t hi hh =>
    obtain ⟨-, -, -, -, hl, hb⟩ := hh.block_eq
    rw [hl, hb]
    exact ⟨List.prefix_refl _, List.prefix_refl _⟩
  | reset rest hr => exact absurd hr (hno rest)

/-- Settles O54: exec lands at a position of the same CUR or finishes; the bus agent leaves CUR, and so does the host while BUSY = 1. -/
theorem runningCommandIsNeverReplaced : Obligations.RunningCommandIsNeverReplaced := by
  unfold Obligations.RunningCommandIsNeverReplaced
  intro s t q h hq hno
  obtain ⟨-, ms, k, he⟩ := step_effect h
  cases he with
  | wait hn => exact .inl ⟨q, hq, rfl⟩
  | exec q' i t hq' hd hx =>
    rcases exec_running (q := q) hx hq with ⟨hf, rfl⟩ | ⟨u, a, p, held, -, -, rfl⟩
    · exact .inr ⟨hf, by simp, by simp⟩
    · exact .inl ⟨_, rfl, rfl⟩
  | bus c b => exact .inl ⟨q, by rw [busStep_seq]; exact hq, rfl⟩
  | host a rest t hi hh =>
    rcases hh.seq_acc with ⟨hs, -⟩ | ⟨hn, -⟩
    · exact .inl ⟨q, hs.trans hq, rfl⟩
    · exact absurd (hn.symm.trans hq) (by simp)
  | reset rest hr => exact absurd hr (hno rest)

end Sys2Proof.Machine
end

section
/-! Registers and reset: the byte views of CR, SR and HSTAT at their bits, a write of CR, and the reset of the whole block (R19, R25 to R28,
R35, R36, R44 of 10_state.md; R129 of 70_reset_and_hazards.md). -/

namespace Sys2Proof.Machine

/-- Settles O22: `status_eq_code` says the status value by the code alone. -/
theorem statusValueMasksPrescaler : Obligations.StatusValueMasksPrescaler := by
  unfold Obligations.StatusValueMasksPrescaler
  intro r
  refine ⟨rfl, status_eq_code r, fun r' h => ?_⟩
  rw [status_eq_code, status_eq_code, h]

/-- Settles O24: HSTAT is the table of its four fields. -/
theorem hstatHoldsItsFields : Obligations.HstatHoldsItsFields := by
  unfold Obligations.HstatHoldsItsFields
  intro s
  unfold State.hstat
  generalize s.busy = busy
  generalize s.overrun = overrun
  revert busy overrun
  cases s.phase <;> cases s.cfg.mode <;> decide

/-- Settles O19, by `writeCr_disabling` and `writeCr_plain`. -/
theorem crWriteSetsFieldsAndDisables : Obligations.CrWriteSetsFieldsAndDisables := by
  unfold Obligations.CrWriteSetsFieldsAndDisables
  intro v s
  refine ⟨fun ⟨he, hv⟩ => ?_, fun hno => ?_⟩
  · rw [writeCr_disabling he hv]
    simp [disableEffects, Cr.written, codeOfStatus, hv]
  · have hplain : s.cr.en = false ∨ v[2] = true := by
      by_contra hc
      simp only [not_or, Bool.not_eq_false, Bool.not_eq_true] at hc
      exact hno hc
    rw [writeCr_plain hplain]
    cases hv : v[7] <;> simp [Cr.written, hv]

/-- CR and SR after reset as bytes (R44). -/
theorem resetWith_cr_sr_toByte (p : Params) : (State.resetWith p).cr.toByte = 0x00#8 ∧ (State.resetWith p).sr.toByte = 0xF8#8 := by
  change Cr.toByte ⟨false, false, false, false, false⟩ = 0x00#8 ∧ Sr.toByte ⟨0x1F#5, 0#2⟩ = 0xF8#8
  decide

/-- Settles O16: a reset input makes the step `resetBlock`, whose block is that of `resetWith`. -/
theorem resetSetsEveryPieceOfState : Obligations.ResetSetsEveryPieceOfState := by
  unfold Obligations.ResetSetsEveryPieceOfState
  obtain ⟨hcr, hsr⟩ := resetWith_cr_sr_toByte Params.default
  refine ⟨fun s rest hw hi => ?_, hcr, hsr, rfl, rfl, rfl, rfl, rfl, rfl, rfl, rfl, rfl, rfl, fun _ => rfl⟩
  obtain ⟨hcr, hsr⟩ := resetWith_cr_sr_toByte s.cfg
  refine ⟨_, step_input hw hi, rfl, hcr, hsr, rfl, rfl, rfl, rfl, rfl, rfl, rfl, rfl, rfl, rfl, rfl, rfl, fun _ => rfl, ?_⟩
  change (0#2 ++ Phase.idle.code ++ modeBit s.cfg.mode ++ BitVec.ofBool false ++ BitVec.ofBool false : Byte) = _
  cases s.cfg.mode <;> rfl

end Sys2Proof.Machine
end

section
/-! The bus agent's step as a step of the machine (R42 of 10_state.md). -/

namespace Sys2Proof.Machine

theorem isReceive_iff {a : Action} : a.isReceive = true ↔ a = .recvAck ∨ a = .recvNack := by
  cases a <;> simp [Action.isReceive]

theorem busStep_disabled {c : Code} {b : Byte} {s : State} (h : s.pend = none ∨ s.cr.en = false) : busStep c b s = s := by
  rcases busStep_cases c b s with ⟨-, ht⟩ | ⟨p, he, hp, -, -⟩ | ⟨p, he, hp, -, -⟩
  · exact ht
  · simp [he, hp] at h
  · simp [he, hp] at h

theorem busStep_stop {c : Code} {b : Byte} {s : State} {p : Pending} (hp : s.pend = some p) (he : s.cr.en = true) (ha : p.act = .stop) :
    busStep c b s = completeStop s := by
  simp [busStep, he, hp, ha]

theorem busStep_action {c : Code} {b : Byte} {s : State} {p : Pending} (hp : s.pend = some p) (he : s.cr.en = true) (ha : p.act ≠ .stop) :
    busStep c b s = completeAction p.act c b s := by
  simp [busStep, he, hp, ha]

/-- A sequencer input appends no completion. -/
theorem step_sequencer_busev {s t : State} {rest : List Move} (hi : s.inputs = .sequencer :: rest) (h : step s = .next t) :
    ∃ ev, t.busev = s.busev ++ ev ∧ NoCompletion ev := by
  obtain ⟨-, ms, k, he⟩ := step_effect h
  cases he with
  | wait => exact ⟨[], by simp [NoCompletion]⟩
  | exec q i t hq hd hx => exact exec_busev_grows (s := { s with inputs := ms, tick := k }) hx
  | bus c b hno => exact absurd hi (hno rest)
  | host a rest' t hi' => simp [hi] at hi'
  | reset rest' hr => simp [hi] at hr

/-- Settles O21: a bus input makes the step `busStep`, one case of it for each clause. -/
theorem busAgentCompletesThePendingAction : Obligations.BusAgentCompletesThePendingAction := by
  unfold Obligations.BusAgentCompletesThePendingAction
  refine ⟨fun s c b rest hw hi => ?_, fun s t rest hi h => step_sequencer_busev hi h⟩
  have hstep : step s = .next (busStep c b { s with inputs := rest }) := step_input hw hi
  refine ⟨fun p hp he ha => ?_, fun p hp he ha => ?_, fun hno => ?_⟩
  · rw [hstep, busStep_stop (s := { s with inputs := rest }) hp he ha]
    rfl
  · rw [hstep, busStep_action (s := { s with inputs := rest }) hp he ha]
    simp only [completeAction, isReceive_iff, statusOfCode]
  · rw [hstep, busStep_disabled (s := { s with inputs := rest }) hno]

end Sys2Proof.Machine
end

section
/-! The host's window as steps of the machine: what each offset returns and what a write that submits nothing changes (R45 to R57 of
20_memory.md). -/

namespace Sys2Proof.Machine

/-! ### Bytes of a word (R49) -/

/-- The byte of a word at an index, of the four it is made of. -/
theorem byteOfWord_wordOfBytes (b0 b1 b2 b3 : Byte) :
    byteOfWord (wordOfBytes b0 b1 b2 b3) 0 = b0 ∧ byteOfWord (wordOfBytes b0 b1 b2 b3) 1 = b1 ∧
      byteOfWord (wordOfBytes b0 b1 b2 b3) 2 = b2 ∧ byteOfWord (wordOfBytes b0 b1 b2 b3) 3 = b3 := by
  have hw : (wordOfBytes b0 b1 b2 b3).toNat = b3.toNat * 2 ^ 24 + b2.toNat * 2 ^ 16 + b1.toNat * 2 ^ 8 + b0.toNat := by
    have h1 := toNat_append_add (b3 ++ b2 ++ b1) b0
    rw [wordOfBytes, h1, toNat_append_add, toNat_append_add]
    omega
  refine ⟨?_, ?_, ?_, ?_⟩ <;> apply BitVec.eq_of_toNat_eq <;> rw [byteOfWord, toNat_extractLsb'_div, hw] <;> omega

/-- Replacing byte `j` of a word replaces that byte alone. -/
theorem byteOfWord_setByteOfWord (w : Word) {j k : Nat} (b : Byte) (hk : k < 4) :
    byteOfWord (setByteOfWord w j b) k = if j = k then b else byteOfWord w k := by
  unfold setByteOfWord
  obtain ⟨h0, h1, h2, h3⟩ := byteOfWord_wordOfBytes (if j = 0 then b else byteOfWord w 0) (if j = 1 then b else byteOfWord w 1)
    (if j = 2 then b else byteOfWord w 2) (if j = 3 then b else byteOfWord w 3)
  obtain rfl | rfl | rfl | rfl : k = 0 ∨ k = 1 ∨ k = 2 ∨ k = 3 := by omega
  · exact h0
  · exact h1
  · exact h2
  · exact h3

/-! ### Accesses inside the window -/

/-- A host move next in the inputs: the step is the host's access. -/
theorem step_host {s : State} {rest : List Move} (a : HostAccess) (hw : Params.wf s.cfg = true) :
    step { s with inputs := .host a :: rest } = hostAccess a { s with inputs := rest } :=
  step_input (s := { s with inputs := .host a :: rest }) hw rfl

theorem hostAccess_read8 {s : State} {off : Nat} (h : off < 512) :
    hostAccess (.read (s.cfg.hostBase + off) 1) s = hostRead8 off s := by
  simp only [hostAccess, windowOffset_in h, if_true]

theorem hostAccess_read32 {s : State} {off : Nat} (h : off < 512) :
    hostAccess (.read (s.cfg.hostBase + off) 4) s = hostRead32 off s := by
  simp [hostAccess, windowOffset_in h]

theorem hostAccess_write8 {s : State} {off : Nat} (d : Word) (h : off < 512) :
    hostAccess (.write (s.cfg.hostBase + off) 1 d) s = hostWrite8 off (byteOfWord d 0) s := by
  simp only [hostAccess, windowOffset_in h, if_true]

theorem hostAccess_write32 {s : State} {off : Nat} (d : Word) (h : off < 512) :
    hostAccess (.write (s.cfg.hostBase + off) 4 d) s = hostWrite32 off d s := by
  simp [hostAccess, windowOffset_in h]

/-! ### What each range of offsets does -/

theorem hostRead8_cmd {off : Nat} {s : State} (h : off < 4) :
    hostRead8 off s = .next (returnData ((byteOfWord s.cmd off).setWidth 32) s) := if_pos h

theorem hostRead8_result {off : Nat} {s : State} (h : 4 ≤ off) (h' : off < 8) :
    hostRead8 off s = .next (returnData ((byteOfWord s.result (off - 4)).setWidth 32) s) := by
  rw [hostRead8, if_neg (by omega), if_pos h']

theorem hostRead8_hstat {s : State} : hostRead8 8 s = .next (returnData (s.hstat.setWidth 32) s) := rfl

theorem hostRead8_reserved {off : Nat} {s : State} (h : 9 ≤ off) (h' : off < 256) : hostRead8 off s = .next (returnData 0#32 s) := by
  rw [hostRead8, if_neg (by omega), if_neg (by omega), if_neg (by omega), if_pos h']

theorem hostRead8_buf_busy {off : Nat} {s : State} (h : 256 ≤ off) (hb : s.busy = true) :
    hostRead8 off s = .next (freeRead .bufWhileBusy 1 s) := by
  rw [hostRead8, if_neg (by omega), if_neg (by omega), if_neg (by omega), if_neg (by omega), if_pos hb]

theorem hostRead8_buf_written {off : Nat} {s : State} {b : Byte} (h : 256 ≤ off) (hb : s.busy = false)
    (hr : s.buf.read (off - 256) = some b) : hostRead8 off s = .next (returnData (b.setWidth 32) s) := by
  rw [hostRead8, if_neg (by omega), if_neg (by omega), if_neg (by omega), if_neg (by omega), if_neg (by simp [hb])]
  simp only [hr]

theorem hostRead8_buf_unwritten {off : Nat} {s : State} (h : 256 ≤ off) (hb : s.busy = false)
    (hr : s.buf.read (off - 256) = none) : hostRead8 off s = .fault (.bufUnwritten (off - 256)) := by
  rw [hostRead8, if_neg (by omega), if_neg (by omega), if_neg (by omega), if_neg (by omega), if_neg (by simp [hb])]
  simp only [hr]

theorem hostWrite8_latch {off : Nat} {b : Byte} {s : State} (h : off < 3) :
    hostWrite8 off b s = .next { s with latch := setByteOfWord s.latch off b } := if_pos h

theorem hostWrite8_result {off : Nat} {b : Byte} {s : State} (h : 4 ≤ off) (h' : off < 8) : hostWrite8 off b s = .next s := by
  rw [hostWrite8, if_neg (by omega), if_neg (by omega), if_pos h']

theorem hostWrite8_reserved {off : Nat} {b : Byte} {s : State} (h : 9 ≤ off) (h' : off < 256) : hostWrite8 off b s = .next s := by
  rw [hostWrite8, if_neg (by omega), if_neg (by omega), if_neg (by omega), if_neg (by omega), if_pos h']

theorem hostWrite8_buf {off : Nat} {b : Byte} {s : State} (h : 256 ≤ off) (hb : s.busy = false) :
    hostWrite8 off b s = .next { s with buf := s.buf.write (off - 256) b } := by
  rw [hostWrite8, if_neg (by omega), if_neg (by omega), if_neg (by omega), if_neg (by omega), if_neg (by omega)]
  simp [hostWriteBuf, hb]

/-- Settles O13: the range the offset lies in, one equation of `hostRead8` for each. -/
theorem hostReadReturnsTheWindow : Obligations.HostReadReturnsTheWindow := by
  unfold Obligations.HostReadReturnsTheWindow
  intro s rest off hw s' rd
  have h8 : off < 512 → rd 1 = hostRead8 off s' := fun h => (step_host _ hw).trans (hostAccess_read8 (s := s') h)
  have h32 : off < 512 → rd 4 = hostRead32 off s' := fun h => (step_host _ hw).trans (hostAccess_read32 (s := s') h)
  refine ⟨fun h => ?_, fun h h' => ?_, fun h => ?_, fun h h' => ?_, fun b h h' hb hr => ?_, fun h h' hb hr => ?_, fun h h' hb => ?_,
    fun h => ?_, fun h => ?_⟩
  · rw [h8 (by omega), hostRead8_cmd h]; rfl
  · rw [h8 (by omega), hostRead8_result h h']; rfl
  · subst h
    rw [h8 (by omega), hostRead8_hstat]; rfl
  · rw [h8 (by omega), hostRead8_reserved h h']; rfl
  · rw [h8 h', hostRead8_buf_written (s := s') h hb hr]; rfl
  · rw [h8 h', hostRead8_buf_unwritten (s := s') h hb hr]
  · rw [h8 h', hostRead8_buf_busy (s := s') h hb]
    exact ⟨(Config.readData s.tick).setWidth 8, s.tick + 1, rfl⟩
  · subst h
    rw [h32 (by omega)]; rfl
  · subst h
    rw [h32 (by omega)]; rfl

/-- Settles O14: the range the offset lies in, one equation of `hostWrite8` for each. -/
theorem hostWriteChangesOnlyItsTarget : Obligations.HostWriteChangesOnlyItsTarget := by
  unfold Obligations.HostWriteChangesOnlyItsTarget
  intro s rest off d hw s' wr
  have h8 : off < 512 → wr 1 = hostWrite8 off (byteOfWord d 0) s' := fun h => (step_host _ hw).trans (hostAccess_write8 (s := s') d h)
  have h32 : off < 512 → wr 4 = hostWrite32 off d s' := fun h => (step_host _ hw).trans (hostAccess_write32 (s := s') d h)
  refine ⟨fun h => ?_, fun h h' => ?_, fun h => ?_, fun h h' => ?_, fun h h' hb => ?_, fun h => ?_⟩
  · refine ⟨setByteOfWord s.latch off (byteOfWord d 0), ?_, ?_, fun j hj hne => ?_⟩
    · rw [h8 (by omega), hostWrite8_latch h]
    · exact (byteOfWord_setByteOfWord s.latch _ (by omega)).trans (if_pos rfl)
    · exact (byteOfWord_setByteOfWord s.latch _ hj).trans (if_neg (Ne.symm hne))
  · rw [h8 (by omega), hostWrite8_result h h']
  · subst h
    have hd : (byteOfWord d 0)[1] = d[1] := by simp [byteOfWord]
    rw [h8 (by omega), ← hd]; rfl
  · rw [h8 (by omega), hostWrite8_reserved h h']
  · refine ⟨s.buf.write (off - 256) (byteOfWord d 0), ?_, Memory.read_write_same .., fun a ha => Memory.read_write_other _ _ ha⟩
    rw [h8 h', hostWrite8_buf (s := s') h hb]
  · subst h
    rw [h32 (by omega)]; rfl

/-- Settles O15: of all that a step can do, only reset and the host's write of HSTAT clear OVERRUN. -/
theorem overrunIsClearedOnlyByTheHostOrReset : Obligations.OverrunIsClearedOnlyByTheHostOrReset := by
  unfold Obligations.OverrunIsClearedOnlyByTheHostOrReset
  intro s t h hon hoff
  have keeps : ∀ {u : State}, u.overrun = s.overrun → u.overrun = false → False := fun h h' => by simp [h, hon] at h'
  obtain ⟨-, ms, k, he⟩ := step_effect h
  cases he with
  | wait => exact (keeps rfl hoff).elim
  | exec q i t hq hd hx =>
    obtain ⟨-, -, -, hov, -⟩ := commandsLeaveHostItemsAlone i _ t hx
    exact (keeps hov hoff).elim
  | bus c b => exact (keeps (by simp) hoff).elim
  | host a rest t hi hh =>
    cases hh with
    | clear d ha =>
      have hd : d[1] = true := by simpa [hon] using hoff
      exact .inr ⟨d, rest, ha ▸ hi, hd⟩
    | keep | read | fault | latch | buffer | illegal | accept | badArgument => exact (keeps rfl hoff).elim
    | drop => cases hoff
  | reset rest hr => exact .inl ⟨rest, hr⟩

end Sys2Proof.Machine
end

section
/-! The stop and the toggle (R91, R94 of 41_primitives.md; R104, R105 of 42_transactions.md): their steps as exec in every command that has
them, the spin on CR.STO as a run, and the ends of the commands that stop. -/

namespace Sys2Proof.Machine

/-- Where a command goes after its stop: a composite read to the toggle, a composite write and SEND_STOP to finish (R70, R105). -/
def afterStop : Instr → Pos
  | .readRegister _ _ => .toggle .off
  | .readRegisters _ _ _ => .toggle .off
  | _ => .finish

/-- The commands that stop: SEND_STOP and the composites. -/
def stops (i : Instr) : Prop := i = .sendStop ∨ isComposite i = true

/-- A step of SendStop, as exec. -/
theorem exec_stop {i : Instr} {s : State} {q : Seq} {p : StopPt} (hi : stops i) (hq : s.seq = some q) (hp : q.pos = .stop p) :
    exec i s = call q .stop (fun t _ => goto q (afterStop i) t) (stopStep p s) := by
  cases i with
  | sendStop => simp only [exec, execSendStop, command_running hq, hp]; rfl
  | readRegister a r => simp only [exec, execReadRegister, command_running hq, hp]; rfl
  | readRegisters a r n => simp only [exec, execReadRegisters, command_running hq, hp]; rfl
  | writeRegister a r b => simp only [exec, execWriteRegister, command_running hq, hp]; rfl
  | writeRegisters a r n => simp only [exec, execWriteRegisters, command_running hq, hp]; rfl
  | setBitrate | init | sendStart | sendRepeatedStart | sendByte | sendWriteAddress | sendReadAddress | sendData | receiveByte
  | getReceivedByte | getStatus => rcases hi with h | h <;> cases h

theorem exec_stop_stay {i : Instr} {s u : State} {q : Seq} {p p' : StopPt} (hi : stops i) (hq : s.seq = some q)
    (hp : q.pos = .stop p) (h : stopStep p s = .stay u p') : exec i s = .next (goto q (.stop p') u) := by
  rw [exec_stop hi hq hp, h]; rfl

theorem exec_stop_ret {i : Instr} {s u : State} {q : Seq} {p : StopPt} {ok : Bool} (hi : stops i) (hq : s.seq = some q)
    (hp : q.pos = .stop p) (h : stopStep p s = .ret u ok) : exec i s = .next (goto q (afterStop i) u) := by
  rw [exec_stop hi hq hp, h]; rfl

/-! ### One read of the spin (R94) -/

/-- The read that finds STO = 0 ends the spin. -/
theorem stopStep_spin_done {s : State} (k : Nat) (h : s.cr.sto = false) : stopStep (.spin k) s = .ret { s with phase := .idle } true := by
  cases hh : s.hardened <;> simp [stopStep, hh, h, pollRead]

/-- A read that finds STO = 1 with budget left goes on; in FAITHFUL mode every read has. -/
theorem stopStep_spin_again {s : State} {k : Nat} (h : s.cr.sto = true) (hk : s.hardened = true → k + 1 < s.cfg.stopBudget) :
    stopStep (.spin k) s = .stay s (.spin (if s.hardened then k + 1 else k)) := by
  cases hh : s.hardened with
  | true => simp [stopStep, hh, h, pollRead, hk hh]
  | false => simp [stopStep, hh, h]

/-- HARDENED: the last read of the budget gives up. -/
theorem stopStep_spin_miss {s : State} {k : Nat} (h : s.cr.sto = true) (hh : s.hardened = true) (hk : s.cfg.stopBudget ≤ k + 1) :
    stopStep (.spin k) s = .stay s .timeout := by
  have hk' : ¬ k + 1 < s.cfg.stopBudget := by omega
  simp [stopStep, hh, h, pollRead, hk']

/-! ### Runs of the spin -/

/-- One sequencer move of a running command. -/
theorem execMoves_one {i : Instr} {s t : State} {q : Seq} (hq : s.seq = some q) (h : exec i s = .next t) :
    execMoves i (sequencerMoves 1) s = .next t :=
  execMoves_sequencer (by simp [State.busy, hq]) h

theorem exec_spin_again {i : Instr} {s : State} {k : Nat} (hi : stops i) (q : Seq) (hs : s.cr.sto = true)
    (hk : s.hardened = true → k + 1 < s.cfg.stopBudget) :
    exec i (goto q (.stop (.spin k)) s) = .next (goto q (.stop (.spin (if s.hardened then k + 1 else k))) s) :=
  exec_stop_stay (u := goto q (.stop (.spin k)) s) (q := { q with pos := .stop (.spin k) }) hi rfl rfl
    (stopStep_spin_again (s := goto q (.stop (.spin k)) s) hs hk)

/-- `n` reads of the spin that find STO = 1, in HARDENED mode within the budget, change the counter alone, and that in HARDENED mode
only (R135 of 70_reset_and_hazards.md). -/
theorem execMoves_spin {i : Instr} {s : State} {k : Nat} (hi : stops i) (q : Seq) (hs : s.cr.sto = true) (n : Nat)
    (hn : s.hardened = true → k + n < s.cfg.stopBudget) :
    execMoves i (sequencerMoves n) (goto q (.stop (.spin k)) s) =
      .next (goto q (.stop (.spin (if s.hardened then k + n else k))) s) := by
  induction n with
  | zero => simp [sequencerMoves, execMoves]
  | succ n ih =>
    rw [sequencerMoves_add n 1, execMoves_append (ih fun hh => by have := hn hh; omega)]
    apply execMoves_one rfl
    cases hh : s.hardened with
    | true => simpa [hh, Nat.add_assoc] using exec_spin_again (k := k + n) hi q hs hn
    | false => simpa [hh] using exec_spin_again (k := k) hi q hs (by simp [hh])

/-- HARDENED: without a completion the spin makes the reads of its budget and gives up. -/
theorem execMoves_spin_timeout {i : Instr} {s : State} {n : Nat} (hi : stops i) (q : Seq) (hs : s.cr.sto = true)
    (hh : s.hardened = true) (hn : s.cfg.stopBudget = n + 1) :
    execMoves i (sequencerMoves (n + 1)) (goto q (.stop (.spin 0)) s) = .next (goto q (.stop .timeout) s) := by
  have hspin := execMoves_spin (k := 0) hi q hs n (fun _ => by omega)
  simp only [hh, if_true, Nat.zero_add] at hspin
  rw [sequencerMoves_add n 1, execMoves_append hspin]
  exact execMoves_one rfl (exec_stop_stay (u := goto q (.stop (.spin n)) s) (q := { q with pos := .stop (.spin n) }) hi rfl rfl
    (stopStep_spin_miss (s := goto q (.stop (.spin n)) s) hs hh hn.le))

/-! ### SEND_STOP (R94) -/

/-- From where SendStop returns, two sequencer moves end SEND_STOP. -/
theorem execMoves_sendStop_end {s u : State} {q : Seq} {p : StopPt} {ok : Bool} (hq : s.seq = some q) (hp : q.pos = .stop p)
    (h : stopStep p s = .ret u ok) :
    execMoves .sendStop (sequencerMoves 2) s = .next { u with result := pack u.acc, seq := none } := by
  have hret := execMoves_one hq (exec_stop_ret (i := .sendStop) (.inl rfl) hq hp h)
  rw [sequencerMoves_add 1 1, execMoves_append hret]
  exact execMoves_one rfl (exec_finish .sendStop (s := goto q .finish u) rfl rfl)

/-- What the issue of SEND_STOP writes (R83): the bus side just after it. -/
def stopIssued (s : State) : State := { s with
  phase := .stopped
  cr := { int := false, ea := false, sta := false, sto := true, en := true }
  pend := some { act := .stop, byte := 0#8 }
  busev := s.busev ++ (abandonEvents s.pend ++ [.issued .stop 0#8])
  acc := Acc.zero }

theorem issueIn_stop_accepted (s : State) (p : Pos) :
    issueIn .stopped .stop (accept .sendStop p s) = stopIssued (accept .sendStop p s) := by
  have hcr : ∀ t : State, writeCr (crPattern .stop) t = { t with cr := t.cr.written (crPattern .stop) } :=
    fun t => writeCr_plain (.inr rfl)
  cases hp : s.pend <;> simp [stopIssued, issueIn, issue, hcr, issueEvents, abandonEvents, issuedByte, accept, hp]

/-- The sequencer's record of SEND_STOP as accepted. -/
def sendStopSeq : Seq := { cur := encode .sendStop, pos := .stop .issue, held := 0#8 }

theorem execMoves_sendStop_issue (s : State) :
    execMoves .sendStop (sequencerMoves 1) (accept .sendStop (.stop .issue) s) =
      .next (goto sendStopSeq (.stop (.spin 0)) (stopIssued s)) := by
  refine execMoves_one (q := sendStopSeq) rfl ((exec_stop_stay (.inl rfl) rfl rfl rfl).trans ?_)
  rw [issueIn_stop_accepted]
  rfl

theorem pack_zero : pack Acc.zero = 0#32 := by decide

/-- A timeout is the first error of a cleared ACC (R85, R115). -/
theorem zero_timedOut (k : ErrKind) (ph : ErrPhase) (st : Byte) :
    Acc.zero.timedOut k ph st = { Acc.zero with timeout := true, errKind := k, errPhase := ph, errStatus := st } := rfl

/-- Settles O28: the issue, the spin as `execMoves_spin`, then the completion and the read that sees it, or the timeout. -/
theorem sendStopIssuesStopAndWaits : Obligations.SendStopIssuesStopAndWaits := by
  unfold Obligations.SendStopIssuesStopAndWaits
  intro s c b j hw hb
  have hidle : s.seq = none := by simpa [State.busy] using hb
  have hbudget : 1 ≤ s.cfg.stopBudget := by
    simp only [Params.wf, Bool.and_eq_true, decide_eq_true_eq] at hw
    omega
  refine ⟨by rw [exec_idle hidle]; rfl, fun hj => ?_, fun hm => ?_⟩
  · have hspin := execMoves_spin (i := .sendStop) (s := stopIssued s) (k := 0) (.inl rfl) sendStopSeq rfl j fun hh => by
      rcases hj with hf | hj
      · exact absurd hf (not_faithful_of_hardened hh)
      · rw [Nat.zero_add]; exact hj
    rw [sequencerMoves_add 1 j, List.append_assoc, execMoves_append (execMoves_sendStop_issue s), execMoves_append hspin,
      execMoves_bus, busStep_stop (p := ⟨.stop, 0#8⟩) rfl rfl rfl, execMoves_sendStop_end rfl rfl (stopStep_spin_done _ rfl)]
    simp [stopIssued, goto, completeStop, stopEvents, codeOfStatus, pack_zero, hidle]
  · have hh : (stopIssued s).hardened = true := hardened_iff.mpr hm
    obtain ⟨n, hn⟩ : ∃ n, s.cfg.stopBudget = n + 1 := ⟨s.cfg.stopBudget - 1, by omega⟩
    have hspin := execMoves_spin_timeout (i := .sendStop) (s := stopIssued s) (.inl rfl) sendStopSeq rfl hh hn
    rw [Nat.add_assoc, sequencerMoves_add 1, sequencerMoves_add _ 2, hn, execMoves_append (execMoves_sendStop_issue s),
      execMoves_append hspin, execMoves_sendStop_end rfl rfl rfl]
    simp [stopIssued, goto, recordStopTimeout, zero_timedOut, hidle]

/-! ### The ends of the composites -/

/-- A step of the toggle, which the two composite reads have (R91): the first write of CR, or the second with PHASE IDLE. -/
theorem exec_toggle {i : Instr} {s t : State} {q : Seq} {p : TogglePt} (hq : s.seq = some q) (hp : q.pos = .toggle p)
    (h : exec i s = .next t) :
    (p = .off ∧ t = goto q (.toggle .on) (writeCr 0x00#8 s)) ∨
    (p = .on ∧ ∃ v, t = goto q .finish (setValue v { writeCr 0x04#8 s with phase := .idle })) := by
  have hs := hasStep_of_next hq h
  rw [hp] at hs
  cases i with
  | readRegister a r =>
    simp only [exec, execReadRegister, command_running hq, hp] at h
    cases p with
    | off => injection h with h; exact .inl ⟨rfl, h.symm⟩
    | on => injection h with h; exact .inr ⟨rfl, _, h.symm⟩
  | readRegisters a r n =>
    simp only [exec, execReadRegisters, command_running hq, hp] at h
    cases p with
    | off => injection h with h; exact .inl ⟨rfl, h.symm⟩
    | on => injection h with h; exact .inr ⟨rfl, s.acc.value, by rw [← h, writeCr_on]; rfl⟩
  | setBitrate | init | sendStart | sendRepeatedStart | sendStop | sendByte | sendWriteAddress | sendReadAddress | sendData | receiveByte
  | getReceivedByte | getStatus | writeRegister | writeRegisters => cases hs

theorem writeCr_off_en (s : State) : (writeCr 0x00#8 s).cr.en = false := by
  unfold writeCr; split <;> rfl

/-- The state after a step at the stop: at another step of it, or at its end with PHASE IDLE. -/
theorem exec_stop_next {i : Instr} {s t : State} {q : Seq} {p : StopPt} (hi : stops i) (hq : s.seq = some q) (hp : q.pos = .stop p)
    (h : exec i s = .next t) :
    (∃ u p', t = goto q (.stop p') u) ∨ (∃ u, t = goto q (afterStop i) u ∧ u.phase = .idle) := by
  rw [exec_stop hi hq hp] at h
  rcases call_next h with ⟨u, p', -, rfl⟩ | ⟨u, ok, hr, rfl⟩
  · exact .inl ⟨u, p', rfl⟩
  · refine .inr ⟨u, rfl, ?_⟩
    rcases stopStep_cases p s with ⟨-, hc⟩ | ⟨-, hc⟩ | ⟨k, -, -, hc⟩ | ⟨k, -, -, -, hc⟩ | ⟨k, -, -, -, -, hc⟩ | ⟨k, -, -, -, -, hc⟩ <;>
      cases hc.symm.trans hr <;> rfl

/-- Settles O44: a step at the stop, at each write of the toggle, and at finish. -/
theorem readsToggleAndWritesDoNot : Obligations.ReadsToggleAndWritesDoNot := by
  unfold Obligations.ReadsToggleAndWritesDoNot
  intro i s t q hi hq h
  refine ⟨fun hf => ?_, fun q' hq' => ⟨fun p hp => ?_, fun hp => ?_, fun hp => ?_⟩⟩
  · obtain rfl : finishOf i s = t := by simpa [exec_finish i hq hf] using h
    simp [hi, State.busy]
  · rcases exec_stop_next (.inr hi) hq hp h with ⟨u, p', rfl⟩ | ⟨u, rfl, hph⟩
    · obtain rfl : _ = q' := Option.some.inj hq'
      exact .inl ⟨p', rfl⟩
    · obtain rfl : _ = q' := Option.some.inj hq'
      refine .inr ⟨hph, ?_⟩
      cases i with
      | readRegister | readRegisters | writeRegister | writeRegisters => rfl
      | setBitrate | init | sendStart | sendRepeatedStart | sendStop | sendByte | sendWriteAddress | sendReadAddress | sendData
      | receiveByte | getReceivedByte | getStatus => cases hi
  · rcases exec_toggle hq hp h with ⟨hoff, -⟩ | ⟨-, v, rfl⟩
    · cases hoff
    · obtain rfl : _ = q' := Option.some.inj hq'
      exact ⟨rfl, rfl, by simp [writeCr_on]⟩
  · rcases exec_toggle hq hp h with ⟨-, rfl⟩ | ⟨hon, -⟩
    · obtain rfl : _ = q' := Option.some.inj hq'
      exact ⟨rfl, writeCr_off_en s⟩
    · cases hon

end Sys2Proof.Machine
end

section
/-! What no command reads: PHASE, BR, SR.PS, LOG and BUSEV (R30, R32, R36, R41 of 10_state.md). Two states that differ in these only stay so
under every operation exec is made of, and the operation answers alike. -/

namespace Sys2Proof.Machine

/-- The fields that no command reads. -/
structure Unread where
  phase : Phase
  br : Byte
  ps : BitVec 2
  log : List LogEntry
  busev : List BusEvent

/-- The state with other values of the unread fields. -/
def State.withUnread (x : Unread) (s : State) : State :=
  { s with phase := x.phase, br := x.br, sr := { s.sr with ps := x.ps }, log := x.log, busev := x.busev }

/-- The unread fields of a state. -/
def State.unread (s : State) : Unread := ⟨s.phase, s.br, s.sr.ps, s.log, s.busev⟩

/-- `t` is `s` but for the unread fields. -/
def SameRead (s t : State) : Prop := ∃ x, t = s.withUnread x

theorem SameRead.of_eq {s t : State} (h : t = s.withUnread t.unread) : SameRead s t := ⟨_, h⟩

@[simp] theorem withUnread_cfg (x : Unread) (s : State) : (s.withUnread x).cfg = s.cfg := rfl
@[simp] theorem withUnread_cr (x : Unread) (s : State) : (s.withUnread x).cr = s.cr := rfl
@[simp] theorem withUnread_buf (x : Unread) (s : State) : (s.withUnread x).buf = s.buf := rfl
@[simp] theorem withUnread_hardened (x : Unread) (s : State) : (s.withUnread x).hardened = s.hardened := rfl

/-- The status value masks SR.PS (R28). -/
@[simp] theorem withUnread_status (x : Unread) (s : State) : (s.withUnread x).sr.status = s.sr.status := by
  rw [status_eq_code, status_eq_code]; rfl

/-! ### Operations on the state -/

theorem SameRead.writeCr {s t : State} (h : SameRead s t) (v : Byte) : SameRead (writeCr v s) (writeCr v t) := by
  obtain ⟨x, rfl⟩ := h
  cases he : s.cr.en && !v[2] <;> simp only [Machine.writeCr, withUnread_cr, he] <;> exact .of_eq rfl

theorem SameRead.issueIn {s t : State} (h : SameRead s t) (ph : Phase) (a : Action) :
    SameRead (issueIn ph a s) (issueIn ph a t) := by
  have hcr : ∀ t : State, Machine.writeCr (crPattern a) t = { t with cr := t.cr.written (crPattern a) } :=
    fun t => writeCr_plain (.inr (by cases a <;> rfl))
  obtain ⟨x, rfl⟩ := h
  simp only [Machine.issueIn, issue, hcr]
  exact .of_eq rfl

theorem SameRead.recordTimeout {s t : State} (h : SameRead s t) (ph : ErrPhase) : SameRead (recordTimeout ph s) (recordTimeout ph t) := by
  obtain ⟨x, rfl⟩ := h
  simp only [Machine.recordTimeout, withUnread_status]
  exact .of_eq rfl

theorem SameRead.recordStopTimeout {s t : State} (h : SameRead s t) : SameRead (recordStopTimeout s) (recordStopTimeout t) := by
  obtain ⟨x, rfl⟩ := h
  simp only [Machine.recordStopTimeout, withUnread_status]
  exact .of_eq rfl

theorem SameRead.recordMismatch {s t : State} (h : SameRead s t) (ph : ErrPhase) (e : Byte) :
    SameRead (recordMismatch ph e s) (recordMismatch ph e t) := by
  obtain ⟨x, rfl⟩ := h
  simp only [Machine.recordMismatch, withUnread_status]
  exact .of_eq rfl

theorem SameRead.checkOk_eq {s t : State} (h : SameRead s t) (e m : Byte) : checkOk e m t = checkOk e m s := by
  obtain ⟨x, rfl⟩ := h
  simp only [checkOk, withUnread_status]

theorem SameRead.check {s t : State} (h : SameRead s t) (ph : ErrPhase) (e m : Byte) : SameRead (check ph e m s) (check ph e m t) := by
  cases hc : checkOk e m s with
  | true => simpa only [Machine.check, h.checkOk_eq, hc, if_true] using h
  | false => simpa only [Machine.check, h.checkOk_eq, hc, Bool.false_eq_true, if_false] using h.recordMismatch ph e

/-! ### Procedures -/

/-- The two returns differ in the unread fields only. -/
inductive SameRet {P : Type} : Ret P → Ret P → Prop where
  | stay {s t : State} (p : P) (h : SameRead s t) : SameRet (.stay s p) (.stay t p)
  | ret {s t : State} (ok : Bool) (h : SameRead s t) : SameRet (.ret s ok) (.ret t ok)

theorem startStep_sameRet {s t : State} (h : SameRead s t) (ph : ErrPhase) (e : Byte) (p : StartPt) :
    SameRet (startStep ph e p s) (startStep ph e p t) := by
  cases p with
  | issue => exact .stay _ (h.issueIn _ _)
  | delay => exact .stay _ h
  | timeout => exact .stay _ (h.recordTimeout _)
  | check c =>
    simp only [startStep, h.checkOk_eq]
    exact .ret _ (h.check _ _ _)
  | poll k =>
    have hs := h
    obtain ⟨x, rfl⟩ := hs
    cases hr : pollRead s.cfg.pollBudget k s.cr.int <;> simp only [startStep, withUnread_cfg, withUnread_cr, hr] <;> exact .stay _ h

theorem sendStep_sameRet {s t : State} (h : SameRead s t) (b : Byte) (ph : ErrPhase) (f : Phase) (e : Option Byte) (p : SendPt) :
    SameRet (sendStep b ph f e p s) (sendStep b ph f e p t) := by
  have hs := h
  obtain ⟨x, rfl⟩ := hs
  cases p with
  | ready =>
    cases hi : s.cr.int <;> simp only [sendStep, withUnread_cr, hi] <;> exact .stay _ h
  | wait k =>
    cases hr : pollRead s.cfg.pollBudget k s.cr.int <;> simp only [sendStep, withUnread_cfg, withUnread_cr, withUnread_hardened, hr]
    case miss => by_cases hh : s.hardened = true <;> simp only [hh] <;> exact .stay _ h
    all_goals exact .stay _ h
  | waitTimeout => exact .ret _ (h.recordTimeout _)
  | load => exact .stay _ (.of_eq rfl)
  | issue => exact .stay _ (h.issueIn _ _)
  | poll k =>
    cases hr : pollRead s.cfg.pollBudget k s.cr.int <;> simp only [sendStep, withUnread_cfg, withUnread_cr, hr]
    case hit =>
      cases e with
      | none => exact .ret _ h
      | some v => exact .stay _ h
    all_goals exact .stay _ h
  | timeout =>
    cases e with
    | none => exact .ret _ (h.recordTimeout _)
    | some v => exact .stay _ (h.recordTimeout _)
  | check c =>
    cases e with
    | none => exact .ret _ h
    | some v =>
      simp only [sendStep, h.checkOk_eq]
      exact .ret _ (h.check _ _ _)

theorem receiveStep_sameRet {s t : State} (h : SameRead s t) (ack : Bool) (p : RecvPt) :
    SameRet (receiveStep ack p s) (receiveStep ack p t) := by
  have hs := h
  obtain ⟨x, rfl⟩ := hs
  cases p with
  | issue => exact .stay _ (h.issueIn _ _)
  | timeout => exact .stay _ (h.recordTimeout _)
  | check c =>
    simp only [receiveStep, h.checkOk_eq, withUnread_cfg]
    exact .ret _ (h.check _ _ _)
  | poll k =>
    cases hr : pollRead s.cfg.pollBudget k s.cr.int <;> simp only [receiveStep, withUnread_cfg, withUnread_cr, hr] <;> exact .stay _ h

theorem stopStep_sameRet {s t : State} (h : SameRead s t) (p : StopPt) : SameRet (stopStep p s) (stopStep p t) := by
  have hs := h
  obtain ⟨x, rfl⟩ := hs
  cases p with
  | issue => exact .stay _ (h.issueIn _ _)
  | timeout => exact .ret _ h.recordStopTimeout
  | spin k =>
    cases hh : s.hardened with
    | true =>
      cases hr : pollRead s.cfg.stopBudget k (!s.cr.sto) <;>
        simp only [stopStep, withUnread_cfg, withUnread_cr, withUnread_hardened, hh, hr, if_true]
      case hit => exact .ret _ (.of_eq rfl)
      all_goals exact .stay _ h
    | false =>
      cases hs : s.cr.sto <;> simp only [stopStep, withUnread_cr, withUnread_hardened, hh, hs]
      case false => exact .ret _ (.of_eq rfl)
      case true => exact .stay _ h

theorem toggleStep_sameRet {s t : State} (h : SameRead s t) (p : TogglePt) : SameRet (toggleStep p s) (toggleStep p t) := by
  cases p with
  | off => exact .stay _ (h.writeCr _)
  | on =>
    obtain ⟨x, rfl⟩ := h
    simp only [toggleStep, writeCr_on]
    exact .ret _ (.of_eq rfl)

/-! ### Calls and commands -/

/-- The two answers are the same stop, or next states that differ in the unread fields only. -/
inductive SameResult : Result → Result → Prop where
  | next {s t : State} (h : SameRead s t) : SameResult (.next s) (.next t)
  | fault (f : Fault) : SameResult (.fault f) (.fault f)
  | refused (r : Refusal) : SameResult (.refused r) (.refused r)

theorem SameRead.goto {s t : State} (h : SameRead s t) (q : Seq) (p : Pos) : SameRead (goto q p s) (goto q p t) := by
  obtain ⟨x, rfl⟩ := h
  exact .of_eq rfl

theorem call_sameResult {P : Type} {q : Seq} {wrap : P → Pos} {after : State → Bool → State} {r r' : Ret P} (h : SameRet r r')
    (ha : ∀ u v ok, SameRead u v → SameRead (after u ok) (after v ok)) : SameResult (call q wrap after r) (call q wrap after r') := by
  cases h with
  | stay p h => exact .next (h.goto q _)
  | ret ok h => exact .next (ha _ _ _ h)

theorem doCall_sameResult {P : Type} {q : Seq} {wrap : P → Pos} {after : State → State} {r r' : Ret P} (h : SameRet r r')
    (ha : ∀ u v, SameRead u v → SameRead (after u) (after v)) : SameResult (doCall q wrap after r) (doCall q wrap after r') := by
  refine call_sameResult h fun u v ok huv => ?_
  have hs := huv
  obtain ⟨x, rfl⟩ := hs
  cases hh : u.hardened && !ok <;> simp only [withUnread_hardened, hh]
  case false => exact ha _ _ huv
  case true => exact .of_eq rfl

/-- exec answers alike in two states that differ in the unread fields only. -/
theorem exec_sameResult {s t : State} (h : SameRead s t) (i : Instr) : SameResult (exec i s) (exec i t) := by
  have hs := h
  obtain ⟨x, rfl⟩ := hs
  cases hq : s.seq with
  | none =>
    rw [exec_idle hq, exec_idle (s := s.withUnread x) hq]
    split <;> exact .next (.of_eq rfl)
  | some q =>
    have hq' : (s.withUnread x).seq = some q := hq
    obtain ⟨cur, pos, held⟩ := q
    cases i <;>
      simp only [exec, execSetBitrate, execInit, execSendStart, execSendRepeatedStart, execSendStop, execSendByte,
        execSendWriteAddress, execSendReadAddress, execSendData, execReceiveByte, execGetReceivedByte, execGetStatus,
        execReadRegister, execReadRegisters, execWriteRegister, execWriteRegisters, command_running hq, command_running hq'] <;>
      cases pos <;>
      simp only [withUnread_status, withUnread_buf, withUnread_cr]
    case init.enable => exact .next ((h.writeCr _).goto _ _)
    case writeRegisters.loadBuf k =>
      cases s.buf.read k with
      | none => exact .fault _
      | some b => exact .next (.of_eq rfl)
    all_goals first
      | exact .refused _
      | exact .next (.of_eq rfl)
      | refine doCall_sameResult ?_ (by rintro u _ ⟨x, rfl⟩; exact .of_eq rfl)
      | refine call_sameResult ?_ (by rintro u _ _ ⟨x, rfl⟩; exact .of_eq rfl)
    all_goals first
      | exact startStep_sameRet h _ _ _
      | exact sendStep_sameRet h _ _ _ _ _
      | exact receiveStep_sameRet h _ _
      | exact stopStep_sameRet h _
      | exact toggleStep_sameRet h _

/-- Settles O55: the two states are `SameRead`, so exec answers the same of them. -/
theorem phaseHistoriesAndBrAreNeverRead : Obligations.PhaseHistoriesAndBrAreNeverRead := by
  unfold Obligations.PhaseHistoriesAndBrAreNeverRead
  intro i s ph br ps lg ev t h
  have hsame : SameResult (exec i s) (exec i (s.withUnread ⟨ph, br, ps, lg, ev⟩)) := exec_sameResult ⟨_, rfl⟩ i
  rw [h] at hsame
  generalize hr : exec i (s.withUnread ⟨ph, br, ps, lg, ev⟩) = r at hsame
  cases hsame with
  | next hst =>
    obtain ⟨x, rfl⟩ := hst
    exact ⟨x.phase, x.br, x.ps, x.log, x.busev, hr⟩

end Sys2Proof.Machine
end

section
/-! A legal word is the encoding of the command it decodes to: where the reserved bits of a format are 0, the word is the format of its own
fields (R65 to R68 of 30_encoding.md). -/

namespace Sys2Proof

theorem formatN_of_reservedOk {w : Word} (h : reservedOkN w = true) : formatN (opField w) = w := by
  rw [reservedOkN, beq_iff_toNat, toNat_extractLsb'_div, BitVec.toNat_ofNat] at h
  apply BitVec.eq_of_toNat_eq
  rw [formatN_toNat, opField_toNat]
  omega

theorem formatK_of_reservedOk {w : Word} (h : reservedOkK w = true) : formatK (opField w) (khzField w) = w := by
  rw [reservedOkK, beq_iff_toNat, toNat_extractLsb'_div, BitVec.toNat_ofNat] at h
  apply BitVec.eq_of_toNat_eq
  rw [formatK_toNat, opField_toNat, khzField_toNat]
  omega

theorem formatB_of_reservedOk {w : Word} (h : reservedOkB w = true) : formatB (opField w) (dataField w) = w := by
  rw [reservedOkB, beq_iff_toNat, toNat_extractLsb'_div, BitVec.toNat_ofNat] at h
  apply BitVec.eq_of_toNat_eq
  rw [formatB_toNat, opField_toNat, dataField_toNat]
  omega

theorem formatA_of_reservedOk {w : Word} (h : reservedOkA w = true) : formatA (opField w) (addr7Field w) = w := by
  rw [reservedOkA, Bool.and_eq_true, beq_iff_toNat, beq_iff_toNat, zField_toNat, toNat_extractLsb'_div, BitVec.toNat_ofNat,
    BitVec.toNat_ofNat] at h
  apply BitVec.eq_of_toNat_eq
  rw [formatA_toNat, opField_toNat, addr7Field_toNat]
  omega

theorem formatR_of_reservedOk {w : Word} (h : reservedOkR w = true) : formatR (opField w) (ackField w) = w := by
  rw [reservedOkR, beq_iff_toNat, toNat_extractLsb'_div, BitVec.toNat_ofNat] at h
  have hack : (ackField w).toNat = w.toNat % 2 := by
    rw [ackField_eq]
    obtain h2 | h2 : w.toNat % 2 = 0 ∨ w.toNat % 2 = 1 := by omega
    · simp [h2]
    · simp [h2]
  apply BitVec.eq_of_toNat_eq
  rw [formatR_toNat, opField_toNat, hack]
  omega

theorem formatT3_of_reservedOk {w : Word} (h : reservedOkT3 w = true) : formatT3 (opField w) (addr7Field w) (regField w) = w := by
  rw [reservedOkT3, Bool.and_eq_true, beq_iff_toNat, beq_iff_toNat, zField_toNat, dataField_toNat, BitVec.toNat_ofNat, BitVec.toNat_ofNat] at h
  apply BitVec.eq_of_toNat_eq
  rw [formatT3_toNat, opField_toNat, addr7Field_toNat, regField_toNat]
  omega

theorem formatT4_of_reservedOk {w : Word} (h : reservedOkT4 w = true) :
    formatT4 (opField w) (addr7Field w) (regField w) (dataField w) = w := by
  rw [reservedOkT4, beq_iff_toNat, zField_toNat, BitVec.toNat_ofNat] at h
  apply BitVec.eq_of_toNat_eq
  rw [formatT4_toNat, opField_toNat, addr7Field_toNat, regField_toNat, dataField_toNat]
  omega

/-- One row of the decoder (R67): the word is the row's command, with the reserved bits of its format 0, or a later row decides. -/
theorem decode_row {op c : Byte} {ok : Bool} {i j : Instr} {later : Except IllegalWord Instr}
    (h : (if op = c then ifReservedOk ok i else later) = .ok j) : (op = c ∧ ok = true ∧ i = j) ∨ later = .ok j := by
  split at h
  next hop =>
    cases ok with
    | false => cases h
    | true => exact .inl ⟨hop, rfl, Except.ok.inj h⟩
  next => exact .inr h

/-- No bit of a legal word is dropped: row by row, in the decoder's order. -/
theorem encode_of_decode {w : Word} {i : Instr} (h : decode w = .ok i) : encode i = w := by
  unfold decode at h
  rcases decode_row h with ⟨hop, hres, rfl⟩ | h
  · rw [encode, ← hop, formatK_of_reservedOk hres]
  rcases decode_row h with ⟨hop, hres, rfl⟩ | h
  · rw [encode, ← hop, formatN_of_reservedOk hres]
  rcases decode_row h with ⟨hop, hres, rfl⟩ | h
  · rw [encode, ← hop, formatN_of_reservedOk hres]
  rcases decode_row h with ⟨hop, hres, rfl⟩ | h
  · rw [encode, ← hop, formatN_of_reservedOk hres]
  rcases decode_row h with ⟨hop, hres, rfl⟩ | h
  · rw [encode, ← hop, formatN_of_reservedOk hres]
  rcases decode_row h with ⟨hop, hres, rfl⟩ | h
  · rw [encode, ← hop, formatB_of_reservedOk hres]
  rcases decode_row h with ⟨hop, hres, rfl⟩ | h
  · rw [encode, ← hop, formatA_of_reservedOk hres]
  rcases decode_row h with ⟨hop, hres, rfl⟩ | h
  · rw [encode, ← hop, formatA_of_reservedOk hres]
  rcases decode_row h with ⟨hop, hres, rfl⟩ | h
  · rw [encode, ← hop, formatB_of_reservedOk hres]
  rcases decode_row h with ⟨hop, hres, rfl⟩ | h
  · rw [encode, ← hop, formatR_of_reservedOk hres]
  rcases decode_row h with ⟨hop, hres, rfl⟩ | h
  · rw [encode, ← hop, formatN_of_reservedOk hres]
  rcases decode_row h with ⟨hop, hres, rfl⟩ | h
  · rw [encode, ← hop, formatN_of_reservedOk hres]
  rcases decode_row h with ⟨hop, hres, rfl⟩ | h
  · rw [encode, ← hop, formatT3_of_reservedOk hres]
  rcases decode_row h with ⟨hop, hres, rfl⟩ | h
  · rw [encode, ← hop, formatT4_of_reservedOk hres]
  rcases decode_row h with ⟨hop, hres, rfl⟩ | h
  · rw [encode, ← hop, formatT4_of_reservedOk hres]
  rcases decode_row h with ⟨hop, hres, rfl⟩ | h
  · rw [encode, ← hop, formatT4_of_reservedOk hres]
  cases h

end Sys2Proof
end

section
/-! Submission (R53, R54 of 20_memory.md; R69 of 30_encoding.md; R116 of 60_exceptions.md): what `submit` answers, and the host's write of
CMD as a step that submits. -/

namespace Sys2Proof.Machine

theorem busy_eq_false_iff {s : State} : s.busy = false ↔ s.seq = none := by
  simp [State.busy]

/-- CMD and the byte latch take the submitted word (R53; log 6). -/
def State.latched (w : Word) (s : State) : State := { s with cmd := w, latch := w }

/-- While BUSY = 1 the word is dropped (R54, R118). -/
theorem submit_busy {s : State} (w : Word) (hb : s.busy = true) :
    submit w s = .next { s with cmd := w, latch := w, overrun := true, hostFaults := s.hostFaults ++ [.submitWhileBusy] } := by
  have hb' : (s.latched w).busy = true := hb
  exact if_pos hb'

theorem submit_illegal {s : State} {w : Word} {e : IllegalWord} (hb : s.busy = false) (hd : decode w = .error e) :
    submit w s = .next (reject .illegalEncoding (s.latched w)) := by
  have hb' : State.busy { s with cmd := w, latch := w } = false := hb
  simp only [submit, hb', hd, Bool.false_eq_true, if_false]
  rfl

/-- A word that is a command is submitted by exec (R69). -/
theorem submit_command {s : State} {w : Word} {i : Instr} (hb : s.busy = false) (hd : decode w = .ok i) :
    submit w s = exec i (s.latched w) := by
  have hb' : State.busy { s with cmd := w, latch := w } = false := hb
  simp only [submit, hb', hd, Bool.false_eq_true, if_false]
  rfl

/-- A submission does not read the byte latch. -/
theorem submit_any_latch (w l : Word) (s : State) : submit w { s with latch := l } = submit w s := rfl

/-- The host's 32-bit write of CMD is a step that submits its word. -/
theorem step_writes_cmd {s : State} {w : Word} {rest : List Move} (hw : Params.wf s.cfg = true)
    (hi : s.inputs = .host (.write s.cfg.hostBase 4 w) :: rest) : step s = submit w { s with inputs := rest } := by
  calc step s = hostAccess (.write s.cfg.hostBase 4 w) { s with inputs := rest } := step_input hw hi
    _ = hostWrite32 0 w { s with inputs := rest } := hostAccess_write32 (s := { s with inputs := rest }) (off := 0) w (by decide)
    _ = submit w { s with inputs := rest } := rfl

/-- Settles O5: the step submits the word, and a word that is a command is submitted by exec. -/
theorem stepSubmitsTheDecodedCommand : Obligations.StepSubmitsTheDecodedCommand := by
  unfold Obligations.StepSubmitsTheDecodedCommand
  intro s w rest i hw hb hd hi
  calc step s = submit w { s with inputs := rest } := step_writes_cmd hw hi
    _ = exec i { s with inputs := rest, cmd := w, latch := w } := submit_command (s := { s with inputs := rest }) hb hd

/-- Settles O11: the step submits the word, and `submit_busy` drops it. -/
theorem wordSubmittedWhileBusyIsDropped : Obligations.WordSubmittedWhileBusyIsDropped := by
  unfold Obligations.WordSubmittedWhileBusyIsDropped
  intro s w rest hw hb hi
  calc step s = submit w { s with inputs := rest } := step_writes_cmd hw hi
    _ = _ := submit_busy (s := { s with inputs := rest }) w hb

/-- The result words of the two rejections (R116). -/
theorem rejectionResult_values :
    rejectionResult .illegalEncoding = 0x00005400#32 ∧ rejectionResult .badArgument = 0x00006400#32 := by decide

/-- Settles O8: the step submits the word; a legal one goes to exec, which rejects SET_BITRATE 0 alone, and CUR is the word itself because
a legal word is its command's encoding. -/
theorem submittedWordIsRejectedOrAccepted : Obligations.SubmittedWordIsRejectedOrAccepted := by
  unfold Obligations.SubmittedWordIsRejectedOrAccepted
  intro s w rest hw hi
  obtain ⟨hillegal, hbad⟩ := rejectionResult_values
  rw [step_writes_cmd hw hi, ← hillegal, ← hbad]
  have hidle : s.busy = false → (State.latched w { s with inputs := rest }).seq = none := busy_eq_false_iff.mp
  refine ⟨fun e hb hd => ?_, fun hb hd => ?_, fun i hb hd hne => ?_, fun hb => ?_⟩
  · exact submit_illegal (s := { s with inputs := rest }) hb hd
  · rw [submit_command (s := { s with inputs := rest }) hb hd, exec_idle (hidle hb), if_neg (by decide)]
    rfl
  · have hwf : i.wf = true := by
      by_contra hn
      exact hne (wf_eq_false_iff.mp (by simpa using hn))
    rw [submit_command (s := { s with inputs := rest }) hb hd, exec_idle (hidle hb), if_pos hwf, accept, encode_of_decode hd]
    rfl
  · exact ⟨_, submit_busy (s := { s with inputs := rest }) w hb, rfl, rfl, rfl⟩

end Sys2Proof.Machine
end

section
/-! The word submitted byte by byte (R49, R53 of 20_memory.md): three latching steps and the step that submits. -/

namespace Sys2Proof.Machine

theorem wordOfBytes_toNat (b0 b1 b2 b3 : Byte) :
    (wordOfBytes b0 b1 b2 b3).toNat = b3.toNat * 2 ^ 24 + b2.toNat * 2 ^ 16 + b1.toNat * 2 ^ 8 + b0.toNat := by
  have h := toNat_append_add (b3 ++ b2 ++ b1) b0
  rw [wordOfBytes, h, toNat_append_add, toNat_append_add]
  omega

/-- A word is made of its four bytes (R49). -/
theorem wordOfBytes_byteOfWord (w : Word) :
    wordOfBytes (byteOfWord w 0) (byteOfWord w 1) (byteOfWord w 2) (byteOfWord w 3) = w := by
  apply BitVec.eq_of_toNat_eq
  simp only [wordOfBytes_toNat, byteOfWord, toNat_extractLsb'_div]
  omega

/-- The byte latch after its bytes 0 to 2 have been written (R53). -/
def latchThree (l : Word) (b0 b1 b2 : Byte) : Word := setByteOfWord (setByteOfWord (setByteOfWord l 0 b0) 1 b1) 2 b2

/-- With the fourth byte the latch holds exactly the four bytes written. -/
theorem setByteOfWord_latchThree (l : Word) (b0 b1 b2 b3 : Byte) :
    setByteOfWord (latchThree l b0 b1 b2) 3 b3 = wordOfBytes b0 b1 b2 b3 := by
  rw [setByteOfWord]
  simp [latchThree, byteOfWord_setByteOfWord]

/-- An 8-bit host write next in the inputs of a state whose latch is `l`: the step is that write. -/
theorem step_write8 {s : State} {rest : List Move} {off : Nat} (d l : Word) (hw : Params.wf s.cfg = true) (h : off < 512) :
    step { s with inputs := .host (.write (s.cfg.hostBase + off) 1 d) :: rest, latch := l } =
      hostWrite8 off (byteOfWord d 0) { s with inputs := rest, latch := l } :=
  (step_host (s := { s with latch := l }) _ hw).trans (hostAccess_write8 (s := { s with inputs := rest, latch := l }) d h)

/-- The host's byte writes at offsets 0, 1 and 2 of the window. -/
def threeByteWrites (base : Nat) (d0 d1 d2 : Word) : List Move :=
  [.host (.write base 1 d0), .host (.write (base + 1) 1 d1), .host (.write (base + 2) 1 d2)]

/-- Byte writes at offsets 0, 1 and 2 only latch. -/
theorem run_threeByteWrites {s : State} (d0 d1 d2 : Word) (rest : List Move) (hw : Params.wf s.cfg = true) (n : Nat) :
    Host.Core.run core (n + 3) { s with inputs := threeByteWrites s.cfg.hostBase d0 d1 d2 ++ rest } =
      Host.Core.run core n { s with
        inputs := rest
        latch := latchThree s.latch (byteOfWord d0 0) (byteOfWord d1 0) (byteOfWord d2 0) } := by
  have h0 := fun ms => (step_write8 (off := 0) (rest := ms) d0 s.latch hw (by decide)).trans (hostWrite8_latch (by decide))
  have h1 := fun ms => (step_write8 (off := 1) (rest := ms) d1 (setByteOfWord s.latch 0 (byteOfWord d0 0)) hw (by decide)).trans
    (hostWrite8_latch (by decide))
  have h2 := fun ms => (step_write8 (off := 2) (rest := ms) d2
    (setByteOfWord (setByteOfWord s.latch 0 (byteOfWord d0 0)) 1 (byteOfWord d1 0)) hw (by decide)).trans (hostWrite8_latch (by decide))
  exact (run_succ_next (h0 _) (n + 2)).trans ((run_succ_next (h1 _) (n + 1)).trans (run_succ_next (h2 _) n))

theorem run_one (s : State) : Host.Core.run core 1 s = step s := by
  cases h : step s with
  | next t => exact run_succ_next h 0
  | fault f => exact run_succ_fault h 0
  | refused r => exact run_succ_refused h 0

/-- Settles O10: after three latching steps the fourth write submits the word of the four bytes, as one 32-bit write does; a submission
does not read the latch. -/
theorem byteWritesSubmitLikeOneWordWrite : Obligations.ByteWritesSubmitLikeOneWordWrite := by
  unfold Obligations.ByteWritesSubmitLikeOneWordWrite
  intro s w d0 d1 d2 d3 rest hw h0 h1 h2 h3 base first3
  refine ⟨⟨_, run_threeByteWrites d0 d1 d2 rest hw 0⟩, ?_⟩
  have hword : wordOfBytes (byteOfWord d0 0) (byteOfWord d1 0) (byteOfWord d2 0) (byteOfWord d3 0) = w := by
    have hbytes : byteOfWord d0 0 = byteOfWord w 0 ∧ byteOfWord d1 0 = byteOfWord w 1 ∧ byteOfWord d2 0 = byteOfWord w 2 ∧
        byteOfWord d3 0 = byteOfWord w 3 := ⟨h0, h1, h2, h3⟩
    obtain ⟨e0, e1, e2, e3⟩ := hbytes
    rw [e0, e1, e2, e3, wordOfBytes_byteOfWord]
  let l := latchThree s.latch (byteOfWord d0 0) (byteOfWord d1 0) (byteOfWord d2 0)
  refine (run_threeByteWrites d0 d1 d2 _ hw 1).trans ((run_one _).trans ?_)
  calc step { s with inputs := .host (.write (base + 3) 1 d3) :: rest, latch := l }
      = submit (setByteOfWord l 3 (byteOfWord d3 0)) { s with inputs := rest, latch := l } := step_write8 d3 l hw (by decide)
    _ = submit w { s with inputs := rest, latch := l } := by rw [setByteOfWord_latchThree, hword]
    _ = submit w { s with inputs := rest } := submit_any_latch w l { s with inputs := rest }
    _ = step { s with inputs := .host (.write base 4 w) :: rest } :=
      (step_writes_cmd (s := { s with inputs := .host (.write base 4 w) :: rest }) hw rfl).symm

end Sys2Proof.Machine
end

section
/-! The breaches of the host's duties (R51, R54, R55 of 20_memory.md; R118 of 60_exceptions.md): each is recorded by the access that makes
it, and every step of the machine keeps the record. -/

namespace Sys2Proof.Machine

/-- The access answers a next state in which the host fault `f` is appended. -/
def Records (f : HostFault) (r : Result) (s : State) : Prop := ∃ t, r = .next t ∧ t.hostFaults = s.hostFaults ++ [f]

theorem submit_busy_records {s : State} (w : Word) (hb : s.busy = true) : Records .submitWhileBusy (submit w s) s :=
  ⟨_, submit_busy w hb, rfl⟩

theorem hostWrite8_submits (b : Byte) (s : State) : hostWrite8 3 b s = submit (setByteOfWord s.latch 3 b) s := rfl

theorem hostWrite8_buf_busy_records {off : Nat} {s : State} (b : Byte) (h : 256 ≤ off) (hb : s.busy = true) :
    Records .bufWhileBusy (hostWrite8 off b s) s := by
  rw [hostWrite8, if_neg (by omega), if_neg (by omega), if_neg (by omega), if_neg (by omega), if_neg (by omega), hostWriteBuf, if_pos hb]
  exact ⟨_, rfl, rfl⟩

theorem hostRead8_buf_busy_records {off : Nat} {s : State} (h : 256 ≤ off) (hb : s.busy = true) :
    Records .bufWhileBusy (hostRead8 off s) s :=
  ⟨_, hostRead8_buf_busy h hb, rfl⟩

/-- A width other than 8 and 32 bits, or a 32-bit access at an offset other than those of CMD and RESULT (R51). -/
def NotAdmitted (size off : Nat) : Prop := size ≠ 1 ∧ (size = 4 → off ≠ 0 ∧ off ≠ 4)

theorem hostRead_notAdmitted_records {s : State} {size off : Nat} (h : off < 512) (hn : NotAdmitted size off) :
    Records .accessNotAdmitted (hostAccess (.read (s.cfg.hostBase + off) size) s) s := by
  obtain ⟨h1, h4⟩ := hn
  by_cases hs : size = 4
  · subst hs
    obtain ⟨hcmd, hresult⟩ := h4 rfl
    rw [hostAccess_read32 h, hostRead32, if_neg hcmd, if_neg hresult]
    exact ⟨_, rfl, rfl⟩
  · simp only [hostAccess, windowOffset_in h, if_neg h1, if_neg hs]
    exact ⟨_, rfl, rfl⟩

theorem hostWrite_notAdmitted_records {s : State} {size off : Nat} (d : Word) (h : off < 512) (hn : NotAdmitted size off) :
    Records .accessNotAdmitted (hostAccess (.write (s.cfg.hostBase + off) size d) s) s := by
  obtain ⟨h1, h4⟩ := hn
  by_cases hs : size = 4
  · subst hs
    obtain ⟨hcmd, hresult⟩ := h4 rfl
    rw [hostAccess_write32 d h, hostWrite32, if_neg hcmd, if_neg hresult]
    exact ⟨_, rfl, rfl⟩
  · simp only [hostAccess, windowOffset_in h, if_neg h1, if_neg hs]
    exact ⟨_, rfl, rfl⟩

theorem HostEffect.hostFaults_grow {a : HostAccess} {u t : State} (h : HostEffect a u t) : u.hostFaults <+: t.hostFaults := by
  cases h with
  | read d f k hf => exact hf
  | buffer i b f k hi hf => exact hf
  | fault | drop => exact List.prefix_append _ _
  | keep | latch | clear | illegal | accept | badArgument => exact List.prefix_rfl

/-- Every step, reset too, only appends to the record of host faults (R118; log 11). -/
theorem step_hostFaults_grow {s t : State} (h : step s = .next t) : s.hostFaults <+: t.hostFaults := by
  refine step_keeps (I := fun t => s.hostFaults <+: t.hostFaults) ?_ ?_ ?_ ?_ ?_ List.prefix_rfl h
  · intro u ms k hu; exact hu
  · intro i u v q hu _ _ hx
    obtain ⟨-, -, -, -, hf, -⟩ := commandsLeaveHostItemsAlone i u v hx
    rw [hf]; exact hu
  · intro c b u hu; rw [busStep_hostFaults]; exact hu
  · intro a u v hu hh; exact hu.trans hh.hostFaults_grow
  · intro u hu; exact hu

/-- Settles O12: a host input makes the step the access, one lemma for each breach; and the record only grows. -/
theorem hostBreachesAreRecordedForEver : Obligations.HostBreachesAreRecordedForEver := by
  unfold Obligations.HostBreachesAreRecordedForEver
  refine ⟨fun s a off rest hw hi hoff => ?_, fun s t => step_hostFaults_grow⟩
  let u : State := { s with inputs := rest }
  have hstep : step s = hostAccess a u := step_input hw hi
  rw [hstep]
  refine ⟨fun w ha hb => ?_, fun d ha hb => ?_, fun h256 hb ha => ?_, fun size h1 h4 ha => ?_⟩
  · rw [← hstep, step_writes_cmd hw (ha ▸ hi)]
    exact submit_busy_records (s := u) w hb
  · rw [ha, hostAccess_write8 (s := u) d (by decide), hostWrite8_submits]
    exact submit_busy_records (s := u) _ hb
  · rcases ha with rfl | ⟨d, rfl⟩
    · rw [hostAccess_read8 (s := u) hoff]
      exact hostRead8_buf_busy_records (s := u) h256 hb
    · rw [hostAccess_write8 (s := u) d hoff]
      exact hostWrite8_buf_busy_records (s := u) _ h256 hb
  · rcases ha with rfl | ⟨d, rfl⟩
    · exact hostRead_notAdmitted_records (s := u) hoff ⟨h1, h4⟩
    · exact hostWrite_notAdmitted_records (s := u) d hoff ⟨h1, h4⟩

end Sys2Proof.Machine
end

section
/-! SendByte with its post-check (R86, R90, R96 to R98 of 41_primitives.md): its steps as exec in a command that calls it, its runs, and the
three commands that are this procedure and a finish. -/

namespace Sys2Proof.Machine

/-! ### A procedure that a command calls -/

/-- At the positions `wrap p` the command `i` takes the steps `f` of a procedure, and goes on to `after` where it returns. -/
def Calls {P : Type} (i : Instr) (wrap : P → Pos) (after : Seq → State → Bool → State) (f : P → State → Ret P) : Prop :=
  ∀ (s : State) (q : Seq) (p : P), s.seq = some q → q.pos = wrap p → exec i s = call q wrap (after q) (f p s)

section
variable {P : Type} {i : Instr} {wrap : P → Pos} {after : Seq → State → Bool → State} {f : P → State → Ret P}

/-- One sequencer move inside the procedure. -/
theorem Calls.execMoves_stay (hc : Calls i wrap after f) {s u : State} (q : Seq) {p p' : P}
    (hf : f p (goto q (wrap p) s) = .stay (goto q (wrap p) u) p') :
    execMoves i (sequencerMoves 1) (goto q (wrap p) s) = .next (goto q (wrap p') u) :=
  execMoves_one (q := { q with pos := wrap p }) rfl (by rw [hc _ _ p rfl rfl, hf]; rfl)

/-- One sequencer move that returns from the procedure. -/
theorem Calls.execMoves_ret (hc : Calls i wrap after f) {s u : State} (q : Seq) {p : P} {ok : Bool}
    (hf : f p (goto q (wrap p) s) = .ret u ok) :
    execMoves i (sequencerMoves 1) (goto q (wrap p) s) = .next (after { q with pos := wrap p } u ok) :=
  execMoves_one (q := { q with pos := wrap p }) rfl (by rw [hc _ _ p rfl rfl, hf]; rfl)

/-- The procedure polls CR.INT at `poll k`, the number `k` of reads made, and gives up at `timeout` (R81). -/
structure Polls (f : P → State → Ret P) (poll : Nat → P) (timeout : P) : Prop where
  again : ∀ (s : State) (k : Nat), s.cr.int = false → k + 1 < s.cfg.pollBudget → f (poll k) s = .stay s (poll (k + 1))
  miss : ∀ (s : State) (k : Nat), s.cr.int = false → s.cfg.pollBudget ≤ k + 1 → f (poll k) s = .stay s timeout

variable {poll : Nat → P} {timeout : P}

/-- `n` reads of a poll that find INT = 0, within the budget, change the counter alone. -/
theorem Calls.execMoves_poll (hc : Calls i wrap after f) (hpoll : Polls f poll timeout) {s : State} {k : Nat} (q : Seq)
    (hint : s.cr.int = false) (n : Nat) (hn : k + n < s.cfg.pollBudget) :
    execMoves i (sequencerMoves n) (goto q (wrap (poll k)) s) = .next (goto q (wrap (poll (k + n))) s) := by
  induction n with
  | zero => rfl
  | succ n ih =>
    rw [sequencerMoves_add n 1, execMoves_append (ih (by omega))]
    exact hc.execMoves_stay q (hpoll.again (goto q (wrap (poll (k + n))) s) (k + n) hint hn)

/-- A poll that finds INT = 0 throughout makes the reads of its budget and gives up. -/
theorem Calls.execMoves_poll_timeout (hc : Calls i wrap after f) (hpoll : Polls f poll timeout) {s : State} (q : Seq)
    (hint : s.cr.int = false) (hb : 1 ≤ s.cfg.pollBudget) :
    execMoves i (sequencerMoves s.cfg.pollBudget) (goto q (wrap (poll 0)) s) = .next (goto q (wrap timeout) s) := by
  obtain ⟨n, hn⟩ : ∃ n, s.cfg.pollBudget = n + 1 := ⟨s.cfg.pollBudget - 1, by omega⟩
  have hreads := hc.execMoves_poll hpoll (k := 0) q hint n (by omega)
  rw [Nat.zero_add] at hreads
  rw [hn, sequencerMoves_add n 1, execMoves_append hreads]
  exact hc.execMoves_stay q (hpoll.miss (goto q (wrap (poll n)) s) n hint hn.le)

end

/-! ### The steps of SendByte -/

theorem sendStep_polls (x : Byte) (phase : ErrPhase) (ph : Phase) (e : Params → Option Byte) :
    Polls (fun p s => sendStep x phase ph (e s.cfg) p s) .poll .timeout where
  again s k hint hk := by simp [sendStep, pollRead, hint, hk]
  miss s k hint hk := by
    have hk' : ¬ k + 1 < s.cfg.pollBudget := by omega
    simp [sendStep, pollRead, hint, hk']

theorem sendStep_ready {s : State} (x : Byte) (phase : ErrPhase) (ph : Phase) (e : Option Byte) (hint : s.cr.int = true) :
    sendStep x phase ph e .ready s = .stay s .load := by
  simp [sendStep, hint]

/-- The read of the poll that finds INT = 1 leads to the post-check. -/
theorem sendStep_poll_hit {s : State} (x : Byte) (phase : ErrPhase) (ph : Phase) (e : Byte) (k : Nat) (hint : s.cr.int = true) :
    sendStep x phase ph (some e) (.poll k) s = .stay s (.check true) := by
  simp [sendStep, pollRead, hint]

/-- CR, PEND, BUSEV and PHASE after an issue, as a whole state (R83, R84). -/
theorem issueIn_eq (ph : Phase) (a : Action) (s : State) : issueIn ph a s = { s with
    phase := ph
    cr := { int := false, ea := decide (a = .recvAck), sta := decide (a = .start), sto := decide (a = .stop), en := true }
    pend := some { act := a, byte := issuedByte a s }
    busev := s.busev ++ (abandonEvents s.pend ++ [.issued a (issuedByte a s)]) } := by
  have hcr : ∀ t : State, writeCr (crPattern a) t = { t with cr := t.cr.written (crPattern a) } :=
    fun t => writeCr_plain (.inr (by cases a <;> rfl))
  cases hp : s.pend <;> simp [issueIn, issue, hcr, issueEvents, abandonEvents, issuedByte, hp]

/-- The state after the load and the issue of SendByte. -/
def sendIssued (x : Byte) (ph : Phase) (s : State) : State := { s with
  phase := ph
  dr := x
  cr := { int := false, ea := false, sta := false, sto := false, en := true }
  pend := some { act := .send, byte := x }
  busev := s.busev ++ (abandonEvents s.pend ++ [.issued .send x]) }

theorem sendStep_issue (x : Byte) (phase : ErrPhase) (ph : Phase) (e : Option Byte) (s : State) :
    sendStep x phase ph e .issue { s with dr := x } = .stay (sendIssued x ph s) (.poll 0) := by
  rw [sendStep, issueIn_eq]; rfl

section
variable {i : Instr} {wrap : SendPt → Pos} {after : Seq → State → Bool → State} {x : Byte} {phase : ErrPhase} {ph : Phase}
  {e : Params → Option Byte}

/-- With INT = 1 the first three moves of SendByte are its read of INT, its load of DR and its issue (R90). -/
theorem Calls.execMoves_send_issue (hc : Calls i wrap after (fun p s => sendStep x phase ph (e s.cfg) p s)) {s : State} (q : Seq)
    (hint : s.cr.int = true) :
    execMoves i (sequencerMoves 3) (goto q (wrap .ready) s) = .next (goto q (wrap (.poll 0)) (sendIssued x ph s)) := by
  have hready := hc.execMoves_stay (s := s) q (sendStep_ready (s := goto q (wrap .ready) s) x phase ph _ hint)
  have hload := hc.execMoves_stay (s := s) (u := { s with dr := x }) q (p := .load) rfl
  have hissue := hc.execMoves_stay (s := { s with dr := x }) (u := sendIssued x ph s) q
    (sendStep_issue x phase ph _ (goto q (wrap .issue) s))
  rw [sequencerMoves_add 1 2, sequencerMoves_add 1 1, execMoves_append hready, execMoves_append hload, hissue]

end

/-! ### Post-checks from a cleared ACC (R86) -/

/-- A post-check with no error before it. -/
theorem check_of_zero {s : State} (ph : ErrPhase) (e m : Byte) (h : s.acc = Acc.zero) : check ph e m s = { s with
    acc := checkedAcc (classify s.cfg e s.sr.status) ph s.sr.status (s.sr.status &&& m = e)
    log := s.log ++ mismatchLog ph e s.sr.status (s.sr.status &&& m = e) } := by
  by_cases hok : s.sr.status &&& m = e
  · simp [check, checkOk, statusPasses, checkedAcc, mismatchLog, hok, ← h]
  · simp [check, checkOk, statusPasses, checkedAcc, mismatchLog, hok, recordMismatch, Acc.err, h, Acc.zero]

/-- A post-check after the timeout of its poll: the timeout stays the named error (R115). -/
theorem check_of_timeout {s : State} (ph : ErrPhase) (e m : Byte) (h : s.acc = Acc.zero) : check ph e m (recordTimeout ph s) = { s with
    acc := timeoutAcc ph s.sr.status (s.sr.status &&& m = e)
    log := s.log ++ mismatchLog ph e s.sr.status (s.sr.status &&& m = e) } := by
  by_cases hok : s.sr.status &&& m = e
  · simp [check, checkOk, statusPasses, timeoutAcc, mismatchLog, hok, recordTimeout, h, Acc.timedOut, Acc.err, Acc.zero]
  · simp [check, checkOk, statusPasses, timeoutAcc, mismatchLog, hok, recordTimeout, recordMismatch, h, Acc.timedOut, Acc.err, Acc.zero]

theorem check_goto (ph : ErrPhase) (e m : Byte) (q : Seq) (p : Pos) (s : State) :
    check ph e m (goto q p s) = goto q p (check ph e m s) := by
  rcases check_cases ph e m s with ⟨hok, hc⟩ | ⟨hok, hc⟩
  · rw [hc]; exact if_pos hok
  · rw [hc]; exact if_neg (by rw [← Bool.not_eq_true] at hok; exact hok)

/-! ### A command that is SendByte with its post-check -/

/-- The command is SendByte of `x` with the post-check against `ok`, then finish (R70, R96 to R98). -/
structure SendsAndChecks (i : Instr) (wrap : SendPt → Pos) (x : Byte) (phase : ErrPhase) (ph : Phase) (ok : Params → Byte) : Prop where
  calls : Calls i wrap thenFinish (fun p s => sendStep x phase ph (some (ok s.cfg)) p s)
  notComposite : isComposite i = false
  wf : i.wf = true
  first : firstPos i = wrap .ready

theorem sendWriteAddress_sendsAndChecks (a : Addr7) : SendsAndChecks (.sendWriteAddress a) .writeAddress (addressByte a false) .address
    .addressed (·.writeAddressOk) where
  calls s q p hq hp := by simp only [exec, execSendWriteAddress, command_running hq, hp]; rfl
  notComposite := rfl
  wf := rfl
  first := rfl

theorem sendReadAddress_sendsAndChecks (a : Addr7) : SendsAndChecks (.sendReadAddress a) .readAddress (addressByte a true) .address
    .addressed (·.readAddressOk) where
  calls s q p hq hp := by simp only [exec, execSendReadAddress, command_running hq, hp]; rfl
  notComposite := rfl
  wf := rfl
  first := rfl

theorem sendData_sendsAndChecks (d : Byte) : SendsAndChecks (.sendData d) (.data 0) d .data .data (·.writeDataOk) where
  calls s q p hq hp := by simp only [exec, execSendData, command_running hq, hp]; rfl
  notComposite := rfl
  wf := rfl
  first := rfl

section
variable {i : Instr} {wrap : SendPt → Pos} {x : Byte} {phase : ErrPhase} {ph : Phase} {ok : Params → Byte}

/-- The command is accepted at its first step (R69). -/
theorem SendsAndChecks.exec_accepts (h : SendsAndChecks i wrap x phase ph ok) {s : State} (hb : s.busy = false) :
    exec i s = .next (accept i (wrap .ready) s) := by
  rw [exec_idle (busy_eq_false_iff.mp hb), if_pos h.wf, h.first]

/-- From the post-check two sequencer moves end the command. -/
theorem SendsAndChecks.execMoves_check (h : SendsAndChecks i wrap x phase ph ok) (q : Seq) (c : Bool) {s t : State}
    (ht : check phase (ok s.cfg) fullMask s = t) :
    execMoves i (sequencerMoves 2) (goto q (wrap (.check c)) s) = .next { t with result := pack t.acc, seq := none } := by
  have hret := h.calls.execMoves_ret (s := s) q (p := .check c) rfl
  rw [check_goto, goto_cfg, ht] at hret
  rw [sequencerMoves_add 1 1, execMoves_append hret, execMoves_one rfl (exec_finish i rfl rfl), finishOf, h.notComposite]
  rfl

/-- With INT = 1 and a bus that completes after `j` reads of the poll. -/
theorem SendsAndChecks.execMoves_completed (h : SendsAndChecks i wrap x phase ph ok) {s : State} (q : Seq) (c : Code) (b : Byte) {j : Nat}
    (hint : s.cr.int = true) (hacc : s.acc = Acc.zero) (hj : j < s.cfg.pollBudget) :
    execMoves i (sequencerMoves (3 + j) ++ (.bus c b :: sequencerMoves 3)) (goto q (wrap .ready) s) =
      .next { completeAction .send c b (sendIssued x ph s) with
        log := s.log ++ mismatchLog phase (ok s.cfg) (statusOfCode c) (statusOfCode c = ok s.cfg)
        acc := checkedAcc (classify s.cfg (ok s.cfg) (statusOfCode c)) phase (statusOfCode c) (statusOfCode c = ok s.cfg)
        result := pack (checkedAcc (classify s.cfg (ok s.cfg) (statusOfCode c)) phase (statusOfCode c) (statusOfCode c = ok s.cfg))
        seq := none } := by
  have hissue := Calls.execMoves_send_issue (e := fun p => some (ok p)) h.calls (s := s) q hint
  let v := completeAction .send c b (sendIssued x ph s)
  have hpoll := h.calls.execMoves_poll (sendStep_polls x phase ph fun p => some (ok p)) (s := sendIssued x ph s)
    (k := 0) q rfl j (by rw [Nat.zero_add]; exact hj)
  have hbus : busStep c b (goto q (wrap (.poll (0 + j))) (sendIssued x ph s)) = goto q (wrap (.poll (0 + j))) v :=
    busStep_action (p := ⟨.send, x⟩) rfl rfl (by simp)
  have hhit := h.calls.execMoves_stay (s := v) q
    (sendStep_poll_hit (s := goto q (wrap (.poll (0 + j))) v) x phase ph _ _ rfl)
  have hst : v.sr.status = statusOfCode c := status_eq_code v.sr
  have hcheck := check_of_zero (s := v) phase (ok s.cfg) fullMask hacc
  rw [status_and_fullMask, hst] at hcheck
  rw [sequencerMoves_add 3 j, List.append_assoc, execMoves_append hissue, execMoves_append hpoll,
    execMoves_bus, hbus, sequencerMoves_add 1 2, execMoves_append hhit, h.execMoves_check q _ hcheck]
  rfl

/-- With INT = 1 and a bus that never completes. -/
theorem SendsAndChecks.execMoves_timeout (h : SendsAndChecks i wrap x phase ph ok) {s : State} (q : Seq)
    (hint : s.cr.int = true) (hacc : s.acc = Acc.zero) (hb : 1 ≤ s.cfg.pollBudget) :
    execMoves i (sequencerMoves (3 + s.cfg.pollBudget + 3)) (goto q (wrap .ready) s) =
      .next { sendIssued x ph s with
        log := s.log ++ mismatchLog phase (ok s.cfg) s.sr.status (s.sr.status = ok s.cfg)
        acc := timeoutAcc phase s.sr.status (s.sr.status = ok s.cfg)
        result := pack (timeoutAcc phase s.sr.status (s.sr.status = ok s.cfg))
        seq := none } := by
  have hissue := Calls.execMoves_send_issue (e := fun p => some (ok p)) h.calls (s := s) q hint
  let v := sendIssued x ph s
  have hpoll : execMoves i (sequencerMoves s.cfg.pollBudget) (goto q (wrap (.poll 0)) v) = .next (goto q (wrap .timeout) v) :=
    h.calls.execMoves_poll_timeout (sendStep_polls x phase ph fun p => some (ok p)) (s := v) q rfl hb
  have htimeout := h.calls.execMoves_stay (s := v) (u := recordTimeout phase v) q (p := .timeout) rfl
  have hcheck := check_of_timeout (s := v) phase (ok s.cfg) fullMask hacc
  rw [status_and_fullMask] at hcheck
  rw [Nat.add_assoc, sequencerMoves_add 3, execMoves_append hissue, sequencerMoves_add _ 3,
    execMoves_append hpoll, sequencerMoves_add 1 2, execMoves_append htimeout, h.execMoves_check q _ hcheck]
  rfl

end

/-! ### The kind of a mismatch (R87) -/

/-- The OK constants of the three sends differ (R9 (5) of 00_scope.md). -/
theorem sendOk_distinct {p : Params} (hw : Params.wf p = true) :
    p.writeAddressOk ≠ p.readAddressOk ∧ p.writeAddressOk ≠ p.writeDataOk ∧ p.readAddressOk ≠ p.writeDataOk := by
  simp only [Params.wf, Bool.and_eq_true, decide_eq_true_eq] at hw
  obtain ⟨⟨⟨⟨⟨⟨-, hnodup⟩, -⟩, -⟩, -⟩, -⟩, -⟩ := hw
  simp only [List.nodup_cons, List.mem_cons, not_or] at hnodup
  obtain ⟨-, -, ⟨hwr, hwd, -⟩, ⟨hrd, -⟩, -⟩ := hnodup
  exact ⟨hwr, hwd, hrd⟩

/-- An OK constant with its NACK constant (R87). -/
def PairedNack (p : Params) (expected nack : Byte) : Prop :=
  (expected = p.writeAddressOk ∧ nack = p.writeAddressNack) ∨ (expected = p.readAddressOk ∧ nack = p.readAddressNack) ∨
    (expected = p.writeDataOk ∧ nack = p.writeDataNack)

/-- No OK constant stands in two pairs, so a mismatch is NACK for the one paired constant. -/
theorem classify_paired {p : Params} {expected nack : Byte} (hw : Params.wf p = true) (h : PairedNack p expected nack) (st : Byte) :
    classify p expected st = if st = nack then .nack else .busError := by
  obtain ⟨hwr, hwd, hrd⟩ := sendOk_distinct hw
  rcases h with ⟨rfl, rfl⟩ | ⟨rfl, rfl⟩ | ⟨rfl, rfl⟩
  · simp [classify, hwr, hwd]
  · simp [classify, hwr.symm, hrd]
  · simp [classify, hwd.symm, hrd.symm]

/-- Settles O30: each of the three is SendByte with its post-check, run to a completion or to the timeout of its poll. -/
theorem addressAndDataCommandsSendAndCheck : Obligations.AddressAndDataCommandsSendAndCheck := by
  unfold Obligations.AddressAndDataCommandsSendAndCheck
  intro s a d c b j i x phase ph expected nack first hw hb hint hi
  obtain ⟨wrap, ok, hsend, rfl, rfl, hnack⟩ : ∃ wrap ok, SendsAndChecks i wrap x phase ph ok ∧ first = wrap .ready ∧
      expected = ok s.cfg ∧ PairedNack s.cfg expected nack := by
    rcases hi with ⟨rfl, hx, rfl, rfl, he, hn, rfl⟩ | ⟨rfl, hx, rfl, rfl, he, hn, rfl⟩ | ⟨rfl, rfl, rfl, rfl, he, hn, rfl⟩
    · obtain rfl : x = addressByte a false := BitVec.eq_of_toNat_eq (hx.trans (addressByte_toNat a false).symm)
      exact ⟨_, _, sendWriteAddress_sendsAndChecks a, rfl, he, .inl ⟨he, hn⟩⟩
    · obtain rfl : x = addressByte a true := BitVec.eq_of_toNat_eq (hx.trans (addressByte_toNat a true).symm)
      exact ⟨_, _, sendReadAddress_sendsAndChecks a, rfl, he, .inr (.inl ⟨he, hn⟩)⟩
    · exact ⟨_, _, sendData_sendsAndChecks x, rfl, he, .inr (.inr ⟨he, hn⟩)⟩
  have hidle : s.seq = none := busy_eq_false_iff.mp hb
  have hbudget : 1 ≤ s.cfg.pollBudget := by
    simp only [Params.wf, Bool.and_eq_true, decide_eq_true_eq] at hw
    omega
  let q : Seq := { cur := encode i, pos := wrap .ready, held := 0#8 }
  refine ⟨hsend.exec_accepts hb, fun hj => ?_, ?_⟩
  · refine (hsend.execMoves_completed (s := accept i (wrap .ready) s) q c b hint rfl hj).trans ?_
    rw [accept_cfg, classify_paired hw hnack]
    simp [sendIssued, completeAction, actionEvents, Action.isReceive, accept, hidle]
  · refine (hsend.execMoves_timeout (s := accept i (wrap .ready) s) q hint rfl hbudget).trans ?_
    rw [hidle]
    rfl

end Sys2Proof.Machine
end

section
/-! Legal words are the encodings of commands, and the words of an opcode row are the encodings of the row's commands: under its mask a
format shows its opcode and zeros, and a word that does is the format of its own fields (R65 to R68 of 30_encoding.md). -/

namespace Sys2Proof

/-- A word is legal exactly when it is a command's encoding. -/
theorem decode_eq_ok_iff {w : Word} {i : Instr} : decode w = .ok i ↔ encode i = w :=
  ⟨encode_of_decode, fun h => h ▸ decode_encode i⟩

/-- Settles O1: the fields of each format read back as they were written. -/
theorem decodeOfEncodeIsTheCommand : Obligations.DecodeOfEncodeIsTheCommand := by
  unfold Obligations.DecodeOfEncodeIsTheCommand
  exact fun i => decode_eq_ok_iff.mpr rfl

/-- Settles O2: where its reserved bits are 0, a word is the format of its own fields. -/
theorem encodeOfDecodedIsTheWord : Obligations.EncodeOfDecodedIsTheWord := by
  unfold Obligations.EncodeOfDecodedIsTheWord
  exact fun w i h => decode_eq_ok_iff.mp h

/-! The masks of the formats (R66): 1 at OP and at the reserved bits. -/

def maskN : Word := 0xFFFFFFFF#32
def maskK : Word := 0xFFFF0000#32
def maskB : Word := 0xFFFFFF00#32
def maskA : Word := 0xFF80FFFF#32
def maskR : Word := 0xFFFFFFFE#32
def maskT3 : Word := 0xFF8000FF#32
def maskT4 : Word := 0xFF800000#32

/-! A format under its mask -/

theorem append_and_zero {m n : Nat} (x c : BitVec m) (y : BitVec n) : (x ++ y) &&& (c ++ 0#n) = (x &&& c) ++ 0#n := by
  rw [BitVec.and_append, BitVec.and_zero]

theorem append_and_allOnes {m n : Nat} (x c : BitVec m) (y : BitVec n) :
    (x ++ y) &&& (c ++ BitVec.allOnes n) = (x &&& c) ++ y := by
  rw [BitVec.and_append, BitVec.and_allOnes]

theorem formatN_and_mask (op : Byte) : formatN op &&& maskN = formatN op := BitVec.and_allOnes

theorem formatK_and_mask (op : Byte) (khz : BitVec 16) : formatK op khz &&& maskK = formatN op := by
  have hmask : maskK = BitVec.allOnes 8 ++ BitVec.allOnes 8 ++ 0#16 := rfl
  have hzero : formatK op 0#16 = formatN op := BitVec.eq_of_toNat_eq (by simp [formatK_toNat, formatN_toNat])
  rw [← hzero, hmask, formatK, append_and_zero, append_and_allOnes, BitVec.and_allOnes, formatK]

theorem formatB_and_mask (op d : Byte) : formatB op d &&& maskB = formatN op := by
  have hmask : maskB = BitVec.allOnes 8 ++ BitVec.allOnes 16 ++ 0#8 := rfl
  have hzero : formatB op 0#8 = formatN op := BitVec.eq_of_toNat_eq (by simp [formatB_toNat, formatN_toNat])
  rw [← hzero, hmask, formatB, append_and_zero, append_and_allOnes, BitVec.and_allOnes, formatB]

theorem formatA_and_mask (op : Byte) (a : Addr7) : formatA op a &&& maskA = formatN op := by
  have hmask : maskA = BitVec.allOnes 8 ++ BitVec.allOnes 1 ++ 0#7 ++ BitVec.allOnes 16 := rfl
  have hzero : formatA op 0#7 = formatN op := BitVec.eq_of_toNat_eq (by simp [formatA_toNat, formatN_toNat])
  rw [← hzero, hmask, formatA, append_and_allOnes, append_and_zero, append_and_allOnes, BitVec.and_allOnes, formatA]

theorem formatR_and_mask (op : Byte) (ack : Bool) : formatR op ack &&& maskR = formatN op := by
  have hmask : maskR = BitVec.allOnes 8 ++ BitVec.allOnes 23 ++ 0#1 := rfl
  have hzero : formatR op false = formatN op := BitVec.eq_of_toNat_eq (by simp [formatR_toNat, formatN_toNat])
  rw [← hzero, hmask, formatR, append_and_zero, append_and_allOnes, BitVec.and_allOnes, formatR]
  rfl

theorem formatT3_and_mask (op : Byte) (a : Addr7) (r : Byte) : formatT3 op a r &&& maskT3 = formatN op := by
  have hmask : maskT3 = BitVec.allOnes 8 ++ BitVec.allOnes 1 ++ 0#7 ++ 0#8 ++ BitVec.allOnes 8 := rfl
  have hzero : formatT3 op 0#7 0#8 = formatN op := BitVec.eq_of_toNat_eq (by simp [formatT3_toNat, formatN_toNat])
  rw [← hzero, hmask, formatT3, append_and_allOnes, append_and_zero, append_and_zero, append_and_allOnes, BitVec.and_allOnes, formatT3]

theorem formatT4_and_mask (op : Byte) (a : Addr7) (r d : Byte) : formatT4 op a r d &&& maskT4 = formatN op := by
  have hmask : maskT4 = BitVec.allOnes 8 ++ BitVec.allOnes 1 ++ 0#7 ++ 0#8 ++ 0#8 := rfl
  have hzero : formatT4 op 0#7 0#8 0#8 = formatN op := BitVec.eq_of_toNat_eq (by simp [formatT4_toNat, formatN_toNat])
  rw [← hzero, hmask, formatT4, append_and_zero, append_and_zero, append_and_zero, append_and_allOnes, BitVec.and_allOnes, formatT4]

/-! A word that shows an opcode under the mask of a format is the format of its own fields. -/

/-- A field that the mask covers is that of the masked word. -/
theorem extractLsb'_eq_of_and_eq {w m p : Word} {lo len : Nat} (h : w &&& m = p)
    (hm : m.extractLsb' lo len = BitVec.allOnes len) : w.extractLsb' lo len = p.extractLsb' lo len := by
  rw [← h, BitVec.extractLsb'_and, hm, BitVec.and_allOnes]

/-- Below OP the masked word is 0, so a covered field there is 0. -/
theorem extractLsb'_eq_zero_of_and_eq {w m : Word} {op : Byte} {lo len : Nat} (h : w &&& m = formatN op) (hlo : lo + len ≤ 24)
    (hm : m.extractLsb' lo len = BitVec.allOnes len) : w.extractLsb' lo len = 0#len := by
  have hp : (formatN op).extractLsb' lo len = (0#24).extractLsb' lo len := BitVec.extractLsb'_append_eq_of_add_le hlo
  rw [extractLsb'_eq_of_and_eq h hm, hp, BitVec.extractLsb'_zero]

theorem opField_of_and_eq {w m : Word} {op : Byte} (h : w &&& m = formatN op) (hm : opField m = BitVec.allOnes 8) : opField w = op :=
  (extractLsb'_eq_of_and_eq h hm).trans BitVec.extractLsb'_append_eq_left

section
variable {w : Word} {op : Byte}

theorem formatN_of_and_mask (h : w &&& maskN = formatN op) : formatN op = w := h.symm.trans BitVec.and_allOnes

theorem formatK_of_and_mask (h : w &&& maskK = formatN op) : formatK op (khzField w) = w := by
  have hres : reservedOkK w = true := beq_iff_eq.mpr (extractLsb'_eq_zero_of_and_eq h (by decide) rfl)
  rw [← opField_of_and_eq h rfl, formatK_of_reservedOk hres]

theorem formatB_of_and_mask (h : w &&& maskB = formatN op) : formatB op (dataField w) = w := by
  have hres : reservedOkB w = true := beq_iff_eq.mpr (extractLsb'_eq_zero_of_and_eq h (by decide) rfl)
  rw [← opField_of_and_eq h rfl, formatB_of_reservedOk hres]

theorem formatA_of_and_mask (h : w &&& maskA = formatN op) : formatA op (addr7Field w) = w := by
  have hres : reservedOkA w = true := by
    rw [reservedOkA, Bool.and_eq_true, beq_iff_eq, beq_iff_eq]
    exact ⟨extractLsb'_eq_zero_of_and_eq h (by decide) rfl, extractLsb'_eq_zero_of_and_eq h (by decide) rfl⟩
  rw [← opField_of_and_eq h rfl, formatA_of_reservedOk hres]

theorem formatR_of_and_mask (h : w &&& maskR = formatN op) : formatR op (ackField w) = w := by
  have hres : reservedOkR w = true := beq_iff_eq.mpr (extractLsb'_eq_zero_of_and_eq h (by decide) rfl)
  rw [← opField_of_and_eq h rfl, formatR_of_reservedOk hres]

theorem formatT3_of_and_mask (h : w &&& maskT3 = formatN op) : formatT3 op (addr7Field w) (regField w) = w := by
  have hres : reservedOkT3 w = true := by
    rw [reservedOkT3, Bool.and_eq_true, beq_iff_eq, beq_iff_eq]
    exact ⟨extractLsb'_eq_zero_of_and_eq h (by decide) rfl, extractLsb'_eq_zero_of_and_eq h (by decide) rfl⟩
  rw [← opField_of_and_eq h rfl, formatT3_of_reservedOk hres]

theorem formatT4_of_and_mask (h : w &&& maskT4 = formatN op) : formatT4 op (addr7Field w) (regField w) (dataField w) = w := by
  have hres : reservedOkT4 w = true := beq_iff_eq.mpr (extractLsb'_eq_zero_of_and_eq h (by decide) rfl)
  rw [← opField_of_and_eq h rfl, formatT4_of_reservedOk hres]

end

/-! The rows of the opcode map (R67) -/

/-- The mask of the command's format. -/
def Instr.mask : Instr → Word
  | .setBitrate _ => maskK
  | .init => maskN
  | .sendStart => maskN
  | .sendRepeatedStart => maskN
  | .sendStop => maskN
  | .sendByte _ => maskB
  | .sendWriteAddress _ => maskA
  | .sendReadAddress _ => maskA
  | .sendData _ => maskB
  | .receiveByte _ => maskR
  | .getReceivedByte => maskN
  | .getStatus => maskN
  | .readRegister _ _ => maskT3
  | .readRegisters _ _ _ => maskT4
  | .writeRegister _ _ _ => maskT4
  | .writeRegisters _ _ _ => maskT4

/-- The command's row: its opcode under the mask of its format. -/
def Instr.row (i : Instr) : OpcodeRow := ⟨i.mnemonic, i.mask, formatN (Laws.opcode i)⟩

/-- One command of each row, in the table's order. -/
def oneOfEachRow : List Instr := [.setBitrate 0#16, .init, .sendStart, .sendRepeatedStart, .sendStop, .sendByte 0#8,
  .sendWriteAddress 0#7, .sendReadAddress 0#7, .sendData 0#8, .receiveByte false, .getReceivedByte, .getStatus,
  .readRegister 0#7 0#8, .readRegisters 0#7 0#8 0#8, .writeRegister 0#7 0#8 0#8, .writeRegisters 0#7 0#8 0#8]

theorem opcodeRows_eq_map_row : opcodeRows = oneOfEachRow.map Instr.row := rfl

theorem Instr.row_mem (i : Instr) : i.row ∈ opcodeRows := by
  cases i <;> simp only [row, mnemonic, mask, Laws.opcode] <;> decide

theorem eq_row_of_mem {r : OpcodeRow} (h : r ∈ opcodeRows) : ∃ i : Instr, r = i.row := by
  rw [opcodeRows_eq_map_row, List.mem_map] at h
  obtain ⟨i, -, rfl⟩ := h
  exact ⟨i, rfl⟩

/-- No two rows have one mnemonic. -/
theorem row_eq_of_mnemonic_eq {i j : Instr} (h : i.mnemonic = j.mnemonic) : i.row = j.row := by
  have hnodup : (opcodeRows.map OpcodeRow.mnemonic).Nodup := by decide
  exact List.inj_on_of_nodup_map hnodup i.row_mem j.row_mem h

theorem encode_and_mask (i : Instr) : encode i &&& i.mask = formatN (Laws.opcode i) := by
  cases i with
  | setBitrate khz => exact formatK_and_mask _ khz
  | init => exact formatN_and_mask _
  | sendStart => exact formatN_and_mask _
  | sendRepeatedStart => exact formatN_and_mask _
  | sendStop => exact formatN_and_mask _
  | sendByte b => exact formatB_and_mask _ b
  | sendWriteAddress a => exact formatA_and_mask _ a
  | sendReadAddress a => exact formatA_and_mask _ a
  | sendData b => exact formatB_and_mask _ b
  | receiveByte ack => exact formatR_and_mask _ ack
  | getReceivedByte => exact formatN_and_mask _
  | getStatus => exact formatN_and_mask _
  | readRegister a r => exact formatT3_and_mask _ a r
  | readRegisters a r n => exact formatT4_and_mask _ a r n
  | writeRegister a r b => exact formatT4_and_mask _ a r b
  | writeRegisters a r n => exact formatT4_and_mask _ a r n

/-- A word of the command's row is the encoding of the row's command with the operands in the word's fields. -/
theorem exists_encode_of_and_mask {w : Word} (i : Instr) (h : w &&& i.mask = formatN (Laws.opcode i)) :
    ∃ j, encode j = w ∧ j.mnemonic = i.mnemonic := by
  cases i with
  | setBitrate _ => exact ⟨.setBitrate (khzField w), formatK_of_and_mask h, rfl⟩
  | init => exact ⟨.init, formatN_of_and_mask h, rfl⟩
  | sendStart => exact ⟨.sendStart, formatN_of_and_mask h, rfl⟩
  | sendRepeatedStart => exact ⟨.sendRepeatedStart, formatN_of_and_mask h, rfl⟩
  | sendStop => exact ⟨.sendStop, formatN_of_and_mask h, rfl⟩
  | sendByte _ => exact ⟨.sendByte (dataField w), formatB_of_and_mask h, rfl⟩
  | sendWriteAddress _ => exact ⟨.sendWriteAddress (addr7Field w), formatA_of_and_mask h, rfl⟩
  | sendReadAddress _ => exact ⟨.sendReadAddress (addr7Field w), formatA_of_and_mask h, rfl⟩
  | sendData _ => exact ⟨.sendData (dataField w), formatB_of_and_mask h, rfl⟩
  | receiveByte _ => exact ⟨.receiveByte (ackField w), formatR_of_and_mask h, rfl⟩
  | getReceivedByte => exact ⟨.getReceivedByte, formatN_of_and_mask h, rfl⟩
  | getStatus => exact ⟨.getStatus, formatN_of_and_mask h, rfl⟩
  | readRegister _ _ => exact ⟨.readRegister (addr7Field w) (regField w), formatT3_of_and_mask h, rfl⟩
  | readRegisters _ _ _ => exact ⟨.readRegisters (addr7Field w) (regField w) (dataField w), formatT4_of_and_mask h, rfl⟩
  | writeRegister _ _ _ => exact ⟨.writeRegister (addr7Field w) (regField w) (dataField w), formatT4_of_and_mask h, rfl⟩
  | writeRegisters _ _ _ => exact ⟨.writeRegisters (addr7Field w) (regField w) (dataField w), formatT4_of_and_mask h, rfl⟩

/-- The words of a row are the legal words of its mnemonic. -/
theorem matches_row_iff {w : Word} {r : OpcodeRow} (hr : r ∈ opcodeRows) :
    w &&& r.mask = r.pattern ↔ ∃ i, decode w = .ok i ∧ i.mnemonic = r.mnemonic := by
  obtain ⟨i, rfl⟩ := eq_row_of_mem hr
  constructor
  · intro h
    obtain ⟨j, hj, hm⟩ := exists_encode_of_and_mask i h
    exact ⟨j, decode_eq_ok_iff.mpr hj, hm⟩
  · rintro ⟨j, hj, hm⟩
    rw [← decode_eq_ok_iff.mp hj, ← row_eq_of_mnemonic_eq hm]
    exact encode_and_mask j

/-- A word that matches two rows decodes to one command, whose mnemonic names both. -/
theorem row_eq_of_matches {w : Word} {r r' : OpcodeRow} (hr : r ∈ opcodeRows) (hr' : r' ∈ opcodeRows)
    (h : w &&& r.mask = r.pattern) (h' : w &&& r'.mask = r'.pattern) : r = r' := by
  obtain ⟨i, hi, hm⟩ := (matches_row_iff hr).mp h
  obtain ⟨j, hj, hm'⟩ := (matches_row_iff hr').mp h'
  obtain rfl : i = j := Except.ok.inj (hi.symm.trans hj)
  obtain ⟨k, rfl⟩ := eq_row_of_mem hr
  obtain ⟨l, rfl⟩ := eq_row_of_mem hr'
  exact row_eq_of_mnemonic_eq (hm.symm.trans hm')

/-- The operands of a format T4 are its fields. -/
theorem operands_formatT4 (c : Addr7 → Byte → Byte → Instr) (op : Byte) (a : Addr7) (r d : Byte) :
    c a r d = c (addr7Field (formatT4 op a r d)) (regField (formatT4 op a r d)) (dataField (formatT4 op a r d)) := by
  rw [addr7Field_formatT4, regField_formatT4, dataField_formatT4]

/-- Settles O3: a row's words are the encodings of its commands, a legal word is one encoding, and each operand reads back from its field
of the encoding. -/
theorem wordIsCommandOfItsOpcodeRow : Obligations.WordIsCommandOfItsOpcodeRow := by
  unfold Obligations.WordIsCommandOfItsOpcodeRow
  refine ⟨fun w r hr => matches_row_iff hr, fun w r r' hr hr' h h' => row_eq_of_matches hr hr' h h', fun w i h => ?_⟩
  obtain rfl := decode_eq_ok_iff.mp h
  have hop : (encode i).extractLsb' 24 8 = Laws.opcode i := opField_encode i
  rw [hop]
  cases i with
  | setBitrate khz => exact congrArg Instr.setBitrate (khzField_formatK _ khz).symm
  | init => rfl
  | sendStart => rfl
  | sendRepeatedStart => rfl
  | sendStop => rfl
  | sendByte b => exact congrArg Instr.sendByte (dataField_formatB _ b).symm
  | sendWriteAddress a => exact congrArg Instr.sendWriteAddress (addr7Field_formatA _ a).symm
  | sendReadAddress a => exact congrArg Instr.sendReadAddress (addr7Field_formatA _ a).symm
  | sendData b => exact congrArg Instr.sendData (dataField_formatB _ b).symm
  | receiveByte ack => exact congrArg Instr.receiveByte (ackField_formatR _ ack).symm
  | getReceivedByte => rfl
  | getStatus => rfl
  | readRegister a r => exact congrArg₂ Instr.readRegister (addr7Field_formatT3 _ a r).symm (regField_formatT3 _ a r).symm
  | readRegisters a r n => exact operands_formatT4 .readRegisters _ a r n
  | writeRegister a r b => exact operands_formatT4 .writeRegister _ a r b
  | writeRegisters a r n => exact operands_formatT4 .writeRegisters _ a r n

/-- Settles O4: the decoder run on the eight words. -/
theorem specWordsDecodeAsWritten : Obligations.SpecWordsDecodeAsWritten := by
  unfold Obligations.SpecWordsDecodeAsWritten
  exact ⟨rfl, rfl, rfl, rfl, rfl, rfl, rfl, rfl⟩

end Sys2Proof
end

section
/-! What exec answers with no command running (R69 of 30_encoding.md, R79 of 40_bitrate.md). -/

namespace Sys2Proof.Machine

/-- Settles O9: `exec_idle` by the argument check, which SET_BITRATE 0 alone fails. -/
theorem execAcceptsEveryCommand : Obligations.ExecAcceptsEveryCommand := by
  unfold Obligations.ExecAcceptsEveryCommand
  intro i s hb
  obtain ⟨-, hbad⟩ := rejectionResult_values
  rw [exec_idle (busy_eq_false_iff.mp hb)]
  by_cases hi : i = .setBitrate 0#16
  · have hwf : i.wf = false := wf_eq_false_iff.mpr hi
    rw [if_neg (by simp [hwf]), if_pos hi, reject, hbad]
  · have hwf : i.wf = true := by simpa using mt wf_eq_false_iff.mp hi
    rw [if_pos hwf, if_neg hi, accept]

end Sys2Proof.Machine
end

section
/-! The result word as the sum of its fields, each at its place (R71 to R73 of 30_encoding.md). -/

namespace Sys2Proof.Machine

theorem pack_toNat (a : Acc) : (pack a).toNat = a.errStatus.toNat * 2 ^ 20 + a.errPhase.code.toNat * 2 ^ 16 +
    a.errKind.code.toNat * 2 ^ 12 + a.aborted.toNat * 2 ^ 11 + a.illegal.toNat * 2 ^ 10 + a.mismatch.toNat * 2 ^ 9 +
    a.timeout.toNat * 2 ^ 8 + a.value.toNat := by
  simp only [pack, toNat_append_add, BitVec.toNat_ofNat, BitVec.toNat_ofBool]
  omega

theorem extractLsb'_eq_of_toNat {n lo len : Nat} {x : BitVec n} {y : BitVec len} (h : x.toNat / 2 ^ lo % 2 ^ len = y.toNat) :
    x.extractLsb' lo len = y :=
  BitVec.eq_of_toNat_eq ((toNat_extractLsb'_div x lo len).trans h)

/-- A bit as a quotient and a remainder. -/
theorem getElem_eq_of_toNat {n : Nat} {x : BitVec n} {k : Nat} {b : Bool} (hk : k < n) (h : x.toNat / 2 ^ k % 2 = b.toNat) :
    x[k] = b := by
  rw [BitVec.getElem_eq_testBit_toNat, Nat.testBit_eq_decide_div_mod_eq, h]
  cases b <;> rfl

/-- The fields of the result word at their bits (R71). -/
theorem pack_fields (a : Acc) :
    (pack a).extractLsb' 0 8 = a.value ∧ (pack a)[8] = a.timeout ∧ (pack a)[9] = a.mismatch ∧ (pack a)[10] = a.illegal ∧
    (pack a)[11] = a.aborted ∧ (pack a).extractLsb' 12 4 = a.errKind.code ∧ (pack a).extractLsb' 16 4 = a.errPhase.code ∧
    (pack a).extractLsb' 20 8 = a.errStatus ∧ (pack a).extractLsb' 28 4 = 0#4 := by
  have h := pack_toNat a
  have haborted := a.aborted.toNat_lt
  have hillegal := a.illegal.toNat_lt
  have hmismatch := a.mismatch.toNat_lt
  have htimeout := a.timeout.toNat_lt
  have hzero : (0#4).toNat = 0 := rfl
  refine ⟨extractLsb'_eq_of_toNat ?_, getElem_eq_of_toNat _ ?_, getElem_eq_of_toNat _ ?_, getElem_eq_of_toNat _ ?_,
    getElem_eq_of_toNat _ ?_, extractLsb'_eq_of_toNat ?_, extractLsb'_eq_of_toNat ?_, extractLsb'_eq_of_toNat ?_,
    extractLsb'_eq_of_toNat ?_⟩ <;> omega

/-- Settles O23: the fields of the sum, with the codes of the kind and the phase. -/
theorem resultWordHoldsItsFields : Obligations.ResultWordHoldsItsFields := by
  unfold Obligations.ResultWordHoldsItsFields
  exact pack_fields

end Sys2Proof.Machine
end

section
/-! Family 0x0 (R76 to R80 of 40_bitrate.md): the two bit-rate steps and INIT's enable as exec, and the runs of SET_BITRATE and INIT from
acceptance to finish. -/

namespace Sys2Proof.Machine

/-! ### Values -/

/-- An ACC that names no error packs to its value (R71 of 30_encoding.md). -/
theorem pack_value (v : Byte) : pack { Acc.zero with value := v } = v.setWidth 32 := by
  apply BitVec.eq_of_toNat_eq
  rw [pack_toNat]
  simp [Acc.zero, ErrKind.code, ErrPhase.code]
  omega

/-! ### Runs of sequencer moves -/

/-- The first of several sequencer moves of a running command. -/
theorem execMoves_succ {i : Instr} {s t : State} {q : Seq} (k : Nat) (hq : s.seq = some q) (h : exec i s = .next t) :
    execMoves i (sequencerMoves (k + 1)) s = execMoves i (sequencerMoves k) t := by
  rw [sequencerMoves_succ, execMoves_sequencer (by simp [State.busy, hq]) h]

/-- The last sequencer move of a command is its finish (R70 of 30_encoding.md). -/
theorem execMoves_finish (i : Instr) (q : Seq) (s : State) :
    execMoves i (sequencerMoves 1) (goto q .finish s) = .next (finishOf i (goto q .finish s)) :=
  execMoves_one rfl (exec_finish i rfl rfl)

/-! ### Steps (R79, R80) -/

theorem exec_setBitrate_setPs {s : State} {q : Seq} (khz : BitVec 16) (hq : s.seq = some q) (hp : q.pos = .setPs) :
    exec (.setBitrate khz) s = .next (goto q .setBr (setPrescaler khz.toNat s)) := by
  simp only [exec, execSetBitrate, command_running hq, hp]

theorem exec_setBitrate_setBr {s : State} {q : Seq} (khz : BitVec 16) (hq : s.seq = some q) (hp : q.pos = .setBr) :
    exec (.setBitrate khz) s = .next (goto q .finish (setValue (brValue s.cfg.fClk khz.toNat) (setDivider khz.toNat s))) := by
  simp only [exec, execSetBitrate, command_running hq, hp]

theorem exec_init_setPs {s : State} {q : Seq} (hq : s.seq = some q) (hp : q.pos = .setPs) :
    exec .init s = .next (goto q .setBr (setPrescaler 100 s)) := by
  simp only [exec, execInit, command_running hq, hp]

theorem exec_init_setBr {s : State} {q : Seq} (hq : s.seq = some q) (hp : q.pos = .setBr) :
    exec .init s = .next (goto q .enable (setDivider 100 s)) := by
  simp only [exec, execInit, command_running hq, hp]

theorem exec_init_enable {s : State} {q : Seq} (hq : s.seq = some q) (hp : q.pos = .enable) :
    exec .init s = .next (goto q .finish { s with cr := { s.cr with en := true } }) := by
  simp only [exec, execInit, command_running hq, hp, writeCr_enablePattern]

/-! ### SET_BITRATE -/

/-- The three steps of SET_BITRATE after its acceptance. -/
theorem execMoves_setBitrate {s : State} (khz : BitVec 16) (hidle : s.seq = none) :
    execMoves (.setBitrate khz) (sequencerMoves 3) (accept (.setBitrate khz) .setPs s) = .next { s with
      sr := { s.sr with ps := prescalerCode khz.toNat }
      br := brValue s.cfg.fClk khz.toNat
      acc := { Acc.zero with value := brValue s.cfg.fClk khz.toNat }
      result := (brValue s.cfg.fClk khz.toNat).setWidth 32 } := by
  rw [execMoves_succ 2 rfl (exec_setBitrate_setPs khz rfl rfl), execMoves_succ 1 rfl (exec_setBitrate_setBr khz rfl rfl),
    execMoves_finish, ← pack_value, hidle]
  rfl

/-- Settles O25: the argument check alone rejects khz = 0, and the run is `execMoves_setBitrate`. -/
theorem setBitrateWritesPrescalerAndDivider : Obligations.SetBitrateWritesPrescalerAndDivider := by
  unfold Obligations.SetBitrateWritesPrescalerAndDivider
  intro khz s hb
  have hidle : s.seq = none := busy_eq_false_iff.mp hb
  obtain ⟨-, hbad⟩ := rejectionResult_values
  refine ⟨fun h0 => ?_, fun hne => ⟨?_, execMoves_setBitrate khz hidle⟩⟩
  · rw [exec_idle hidle, h0, if_neg (by decide), reject, hbad]
  · rw [exec_idle hidle, if_pos (by simpa [Instr.wf] using hne)]
    rfl

/-! ### INIT -/

/-- What INIT makes of an idle block (R80). -/
def State.initialised (s : State) : State := { s with
  sr := { s.sr with ps := 0#2 }
  br := brValue s.cfg.fClk 100
  cr := { s.cr with en := true }
  acc := Acc.zero
  result := 0#32 }

/-- INIT is idempotent (R80). -/
theorem initialised_initialised (s : State) : s.initialised.initialised = s.initialised := rfl

theorem exec_init_accepts {s : State} (hidle : s.seq = none) : exec .init s = .next (accept .init .setPs s) :=
  exec_idle hidle

/-- The four steps of INIT after its acceptance. -/
theorem execMoves_init {s : State} (hidle : s.seq = none) :
    execMoves .init (sequencerMoves 4) (accept .init .setPs s) = .next s.initialised := by
  rw [execMoves_succ 3 rfl (exec_init_setPs rfl rfl), execMoves_succ 2 rfl (exec_init_setBr rfl rfl),
    execMoves_succ 1 rfl (exec_init_enable rfl rfl), execMoves_finish, State.initialised, ← pack_zero, hidle]
  rfl

/-- Settles O26: the run is `execMoves_init`, and what it leaves is idle again. -/
theorem initSelects100kHzAndEnables : Obligations.InitSelects100kHzAndEnables := by
  unfold Obligations.InitSelects100kHzAndEnables
  intro s hb q t
  have hidle : s.seq = none := busy_eq_false_iff.mp hb
  have hidle' : s.initialised.seq = none := hidle
  have hagain := execMoves_init hidle'
  rw [initialised_initialised] at hagain
  exact ⟨exec_init_accepts hidle, execMoves_init hidle, exec_init_accepts hidle', hagain⟩

end Sys2Proof.Machine
end

section
/-! The step at which each command has its own effect, as one equation of exec (R79 to R112; log 13): an issue and a load by the procedure a
command calls, the others by the command's own step. -/

namespace Sys2Proof.Machine

/-! ### A step inside a procedure -/

section
variable {P : Type} {i : Instr} {wrap : P → Pos} {after : Seq → State → Bool → State} {f : P → State → Ret P}

theorem Calls.exec_stay (hc : Calls i wrap after f) {s u : State} {q : Seq} {p p' : P} (hq : s.seq = some q) (hp : q.pos = wrap p)
    (hf : f p s = .stay u p') : exec i s = .next (goto q (wrap p') u) := by
  rw [hc s q p hq hp, hf]; rfl

theorem Calls.exec_ret (hc : Calls i wrap after f) {s u : State} {q : Seq} {p : P} {ok : Bool} (hq : s.seq = some q)
    (hp : q.pos = wrap p) (hf : f p s = .ret u ok) : exec i s = .next (after q u ok) := by
  rw [hc s q p hq hp, hf]; rfl

end

/-! ### Which procedure a command calls -/

theorem sendStart_calls :
    Calls .sendStart .start thenFinish (fun p s => startStep .start s.cfg.startOk p s) := fun s q p hq hp => by
  simp only [exec, execSendStart, command_running hq, hp]

theorem sendRepeatedStart_calls : Calls .sendRepeatedStart .repeatedStart thenFinish
    (fun p s => startStep .repeatedStart s.cfg.repeatedStartOk p s) := fun s q p hq hp => by
  simp only [exec, execSendRepeatedStart, command_running hq, hp]

theorem sendByte_calls (x : Byte) : Calls (.sendByte x) .byte thenFinish (fun p s => sendStep x .byte .data none p s) :=
  fun s q p hq hp => by simp only [exec, execSendByte, command_running hq, hp]

theorem receiveByte_calls (ack : Bool) (k : Nat) : Calls (.receiveByte ack) (.receive k) thenFinish (receiveStep ack) :=
  fun s q p hq hp => by simp only [exec, execReceiveByte, command_running hq, hp]

/-- READ_REGISTER after its toggle: VALUE, then finish (R108, R109 of 42_transactions.md). -/
def setReadValue (q : Seq) (s : State) (_ok : Bool) : State := goto q .finish (setValue (readRegisterValue q.held s) s)

theorem readRegister_calls_toggle (a : Addr7) (r : Byte) : Calls (.readRegister a r) .toggle setReadValue toggleStep :=
  fun s q p hq hp => by simp only [exec, execReadRegister, command_running hq, hp]; rfl

/-- The return of a primitive that a composite calls with `do` (R103). -/
def doAfter (after : Seq → State → State) (q : Seq) (s : State) (ok : Bool) : State :=
  if s.hardened && !ok then abort q s else after q s

theorem writeRegister_calls_data (a : Addr7) (r b : Byte) (k : Nat) : Calls (.writeRegister a r b) (.data k)
    (doAfter fun q => goto q (.stop .issue)) (dataStep b) :=
  fun s q p hq hp => by simp only [exec, execWriteRegister, command_running hq, hp]; rfl

/-! ### Loads and issues of the procedures, as whole states (R83, R90, R92 to R99) -/

/-- The state of an issue, of its bus side alone. -/
def issuedIn (ph : Phase) (a : Action) (b : Byte) (cr : Cr) (s : State) : State := { s with
  phase := ph
  cr := cr
  pend := some { act := a, byte := b }
  busev := s.busev ++ (abandonEvents s.pend ++ [.issued a b]) }

theorem startStep_issue (phase : ErrPhase) (e : Byte) (s : State) :
    startStep phase e .issue s = .stay (issuedIn .started .start 0#8 ⟨false, false, true, false, true⟩ s) .delay := by
  rw [startStep, issueIn_eq]; rfl

theorem sendStep_issuedIn (x : Byte) (phase : ErrPhase) (ph : Phase) (e : Option Byte) (s : State) :
    sendStep x phase ph e .issue s = .stay (issuedIn ph .send s.dr ⟨false, false, false, false, true⟩ s) (.poll 0) := by
  rw [sendStep, issueIn_eq]; rfl

theorem stopStep_issue (s : State) :
    stopStep .issue s = .stay (issuedIn .stopped .stop 0#8 ⟨false, false, false, true, true⟩ s) (.spin 0) := by
  rw [stopStep, issueIn_eq]; rfl

theorem receiveStep_issue (ack : Bool) (s : State) : receiveStep ack .issue s =
    .stay (issuedIn .data (if ack then .recvAck else .recvNack) 0#8 ⟨false, ack, false, false, true⟩ s) (.poll 0) := by
  rw [receiveStep, issueIn_eq]; cases ack <;> rfl

/-- The toggle's second write (R91). -/
theorem toggleStep_on (s : State) :
    toggleStep .on s = .ret { s with cr := ⟨s.cr.int, false, false, false, true⟩, phase := .idle } true := by
  rw [toggleStep, writeCr_on]

/-! ### Steps that are a command's own (R101, R102, R108 to R112) -/

theorem exec_getReceivedByte_readDr {s : State} {q : Seq} (hq : s.seq = some q) (hp : q.pos = .readDr) :
    exec .getReceivedByte s = .next (goto q .finish (setValue s.dr s)) := by
  simp only [exec, execGetReceivedByte, command_running hq, hp]

theorem exec_getStatus_readSr {s : State} {q : Seq} (hq : s.seq = some q) (hp : q.pos = .readSr) :
    exec .getStatus s = .next (goto q .finish (setValue (s.sr.code ++ 0#3) s)) := by
  simp only [exec, execGetStatus, command_running hq, hp, status_eq_code, statusOfCode]

theorem exec_readRegister_readDr {s : State} {q : Seq} (a : Addr7) (r : Byte) (hq : s.seq = some q) (hp : q.pos = .readDr) :
    exec (.readRegister a r) s = .next (goto { q with held := s.dr } (.stop .issue) s) := by
  simp only [exec, execReadRegister, command_running hq, hp]

theorem exec_readRegisters_storeBuf {s : State} {q : Seq} (a : Addr7) (r n : Byte) {k : Nat} (hq : s.seq = some q)
    (hp : q.pos = .storeBuf k) : exec (.readRegisters a r n) s = .next (goto q (readNext (count n) (k + 1))
      (setValue (BitVec.ofNat 8 (k + 1)) { s with buf := s.buf.write k s.dr })) := by
  simp only [exec, execReadRegisters, command_running hq, hp]

theorem exec_writeRegisters_loadBuf {s : State} {q : Seq} (a : Addr7) (r n : Byte) {k : Nat} {b : Byte} (hq : s.seq = some q)
    (hp : q.pos = .loadBuf k) (hb : s.buf.read k = some b) :
    exec (.writeRegisters a r n) s = .next (goto { q with held := b } (.data k .ready) s) := by
  simp only [exec, execWriteRegisters, command_running hq, hp, hb]

/-- The byte a burst write sends is the one its `loadBuf` step held. -/
theorem exec_writeRegisters_load {s : State} {q : Seq} (a : Addr7) (r n : Byte) {k : Nat} (hq : s.seq = some q)
    (hp : q.pos = .data k .load) : exec (.writeRegisters a r n) s = .next (goto q (.data k .issue) { s with dr := q.held }) := by
  simp only [exec, execWriteRegisters, command_running hq, hp]
  rfl

/-- VALUE of READ_REGISTER, by its mode (R104, R108). -/
theorem readRegisterValue_eq (v : Byte) (s : State) : readRegisterValue v s =
    if s.acc.aborted = true then s.acc.value else if s.cfg.mode = .hardened ∧ s.acc.errKind ≠ .none then 0#8 else v := by
  simp only [readRegisterValue, Bool.and_eq_true, hardened_iff, bne_iff_ne]

theorem exec_readRegister_toggleOn {s : State} {q : Seq} (a : Addr7) (r : Byte) (hq : s.seq = some q) (hp : q.pos = .toggle .on) :
    exec (.readRegister a r) s = .next (goto q .finish { s with
      cr := ⟨s.cr.int, false, false, false, true⟩
      phase := .idle
      acc := { s.acc with value :=
        if s.acc.aborted = true then s.acc.value
        else if s.cfg.mode = .hardened ∧ s.acc.errKind ≠ .none then 0#8
        else q.held } }) := by
  rw [(readRegister_calls_toggle a r).exec_ret hq hp (toggleStep_on s), setReadValue, readRegisterValue_eq]
  rfl

/-- The address byte is the only byte of its number. -/
theorem eq_addressByte {a : Addr7} {rw : Bool} {x : Byte} (h : x.toNat = 2 * a.toNat + rw.toNat) : x = addressByte a rw :=
  BitVec.eq_of_toNat_eq (h.trans (addressByte_toNat a rw).symm)

/-- Settles O40: each clause is the step lemma of its position; the two address bytes are `addressByte`. -/
theorem eachCommandsStepAnswersItsEffect : Obligations.EachCommandsStepAnswersItsEffect := by
  unfold Obligations.EachCommandsStepAnswersItsEffect
  intro s q hq issued value
  refine ⟨fun khz hp => exec_setBitrate_setPs khz hq hp, fun khz hp => exec_setBitrate_setBr khz hq hp,
    fun hp => exec_init_enable hq hp, ?sendStart, ?sendRepeatedStart, ?sendStop, ?byteLoad, ?byteIssue, ?writeLoad, ?writeIssue,
    ?readLoad, ?readIssue, ?dataLoad, ?dataIssue, ?receive, fun hp => exec_getReceivedByte_readDr hq hp,
    fun hp => exec_getStatus_readSr hq hp, fun a r hp => exec_readRegister_readDr a r hq hp,
    fun a r hp => exec_readRegister_toggleOn a r hq hp, fun a r n k hp => exec_readRegisters_storeBuf a r n hq hp, ?writeRegister,
    fun a r n k b hp hb => exec_writeRegisters_loadBuf a r n hq hp hb, fun a r n k hp => exec_writeRegisters_load a r n hq hp⟩
  case sendStart => exact fun hp => sendStart_calls.exec_stay hq hp (startStep_issue ..)
  case sendRepeatedStart => exact fun hp => sendRepeatedStart_calls.exec_stay hq hp (startStep_issue ..)
  case sendStop => exact fun hp => exec_stop_stay (.inl rfl) hq hp (stopStep_issue s)
  case byteLoad => exact fun x hp => (sendByte_calls x).exec_stay hq hp rfl
  case byteIssue => exact fun x hp => (sendByte_calls x).exec_stay hq hp (sendStep_issuedIn ..)
  case writeLoad =>
    intro a x hx hp
    rw [eq_addressByte (rw := false) hx]
    exact (sendWriteAddress_sendsAndChecks a).calls.exec_stay hq hp rfl
  case writeIssue => exact fun a hp => (sendWriteAddress_sendsAndChecks a).calls.exec_stay hq hp (sendStep_issuedIn ..)
  case readLoad =>
    intro a x hx hp
    rw [eq_addressByte (rw := true) hx]
    exact (sendReadAddress_sendsAndChecks a).calls.exec_stay hq hp rfl
  case readIssue => exact fun a hp => (sendReadAddress_sendsAndChecks a).calls.exec_stay hq hp (sendStep_issuedIn ..)
  case dataLoad => exact fun x hp => (sendData_sendsAndChecks x).calls.exec_stay hq hp rfl
  case dataIssue => exact fun x hp => (sendData_sendsAndChecks x).calls.exec_stay hq hp (sendStep_issuedIn ..)
  case receive => exact fun ack hp => (receiveByte_calls ack 0).exec_stay hq hp (receiveStep_issue ack s)
  case writeRegister => exact fun a r b hp => (writeRegister_calls_data a r b 0).exec_stay hq hp rfl

end Sys2Proof.Machine
end

section
/-! One issue as a whole state (R83, R84 of 41_primitives.md), and the two commands that read a register (R101, R102). -/

namespace Sys2Proof.Machine

/-- An issue that leaves PHASE as it is. -/
theorem issue_eq (a : Action) (s : State) : issue a s = { s with
    cr := (issue a s).cr
    pend := some { act := a, byte := issuedByte a s }
    busev := s.busev ++ (abandonEvents s.pend ++ [.issued a (issuedByte a s)]) } := by
  rw [issue_cr, written_crPattern]
  exact issueIn_eq s.phase a s

/-- CR after the bus agent completes an action just issued (R83's third column). -/
theorem busStep_issue_cr (c : Code) (r : Byte) (a : Action) (s : State) :
    (busStep c r (issue a s)).cr = { (issue a s).cr with int := decide (a ≠ .stop), sto := false } := by
  have hen : (issue a s).cr.en = true := by simp
  by_cases ha : a = .stop
  · rw [busStep_stop (issue_pend a s) hen ha]
    simp [completeStop, ha]
  · rw [busStep_action (issue_pend a s) hen ha]
    simp [completeAction, ha]

/-- Settles O20: CR by the table of each action, the rest by the issue as a whole state. -/
theorem issueWritesCrAndMakesTheActionPending : Obligations.IssueWritesCrAndMakesTheActionPending := by
  unfold Obligations.IssueWritesCrAndMakesTheActionPending
  intro a s c r b
  refine ⟨by cases a <;> rfl, ?completed, ?issued, ?whole⟩
  case completed => rw [busStep_issue_cr, issue_cr, written_crPattern]; cases a <;> rfl
  case issued => rw [issue_cr, written_crPattern]; cases a <;> rfl
  case whole =>
    refine (issue_eq a s).trans ?_
    rw [← List.append_assoc]
    rfl

/-- Settles O33: each is its one step and its finish. -/
theorem getCommandsReturnDrAndStatus : Obligations.GetCommandsReturnDrAndStatus := by
  unfold Obligations.GetCommandsReturnDrAndStatus
  intro s hb
  have hidle : s.seq = none := busy_eq_false_iff.mp hb
  refine ⟨⟨exec_idle hidle, ?_⟩, exec_idle hidle, ?_⟩
  · rw [execMoves_succ 1 rfl (exec_getReceivedByte_readDr rfl rfl), execMoves_finish, ← pack_value, hidle]
    rfl
  · rw [execMoves_succ 1 rfl (exec_getStatus_readSr rfl rfl), execMoves_finish, ← pack_value, hidle]
    rfl

end Sys2Proof.Machine
end

section
/-! A primitive from its final poll to the end of its command (R81, R85, R86): SendStart, SendRepeatedStart and ReceiveByte, as commands
(R92, R93, R99, R100), and the receive that completes after its command has finished (R137). -/

namespace Sys2Proof.Machine

/-! ### From the final poll to finish -/

/-- The procedure `f` of command `i` ends in a completion poll, its Timeout and a post-check made in both cases; then comes finish. -/
structure EndsInCheck {P : Type} (i : Instr) (wrap : P → Pos) (f : P → State → Ret P) (poll : Nat → P) (timeout : P) (chk : Bool → P)
    (phase : ErrPhase) (ok : Params → Byte) (mask : Byte) : Prop where
  calls : Calls i wrap thenFinish f
  notComposite : isComposite i = false
  polls : Polls f poll timeout
  hit : ∀ (s : State) (k : Nat), s.cr.int = true → f (poll k) s = .stay s (chk true)
  timedOut : ∀ s : State, f timeout s = .stay (recordTimeout phase s) (chk false)
  checks : ∀ (s : State) (c : Bool), f (chk c) s = .ret (check phase (ok s.cfg) mask s) (c && checkOk (ok s.cfg) mask s)

/-- The command has ended with this ACC and these log records. -/
def endedWith (acc : Acc) (records : List LogEntry) (s : State) : State :=
  { s with acc := acc, log := s.log ++ records, result := pack acc, seq := none }

/-- From where a procedure that is the whole command returns, two sequencer moves end the command (R70 of 30_encoding.md). -/
theorem Calls.execMoves_ret_finish {P : Type} {i : Instr} {wrap : P → Pos} {f : P → State → Ret P} (hc : Calls i wrap thenFinish f)
    (hi : isComposite i = false) {s u : State} (q : Seq) {p : P} {ok : Bool} (hf : f p (goto q (wrap p) s) = .ret u ok) :
    execMoves i (sequencerMoves 2) (goto q (wrap p) s) = .next { u with result := pack u.acc, seq := none } := by
  rw [sequencerMoves_add 1 1, execMoves_append (hc.execMoves_ret q hf), execMoves_one rfl (exec_finish i rfl rfl), finishOf, hi]
  rfl

section
variable {P : Type} {i : Instr} {wrap : P → Pos} {f : P → State → Ret P} {poll : Nat → P} {timeout : P} {chk : Bool → P}
  {phase : ErrPhase} {ok : Params → Byte} {mask : Byte}

/-- From the post-check two sequencer moves end the command. -/
theorem EndsInCheck.execMoves_check (h : EndsInCheck i wrap f poll timeout chk phase ok mask) (q : Seq) (c : Bool) {s t : State}
    (ht : check phase (ok s.cfg) mask s = t) :
    execMoves i (sequencerMoves 2) (goto q (wrap (chk c)) s) = .next { t with result := pack t.acc, seq := none } := by
  have hret := h.calls.execMoves_ret_finish h.notComposite q (h.checks (goto q (wrap (chk c)) s) c)
  rw [goto_cfg, check_goto, ht] at hret
  exact hret

/-- A bus that completes the action after `j` reads of the poll. -/
theorem EndsInCheck.execMoves_completed (h : EndsInCheck i wrap f poll timeout chk phase ok mask) {s : State} {p : Pending} (q : Seq)
    (c : Code) (b : Byte) {j : Nat} (hp : s.pend = some p) (ha : p.act ≠ .stop) (hen : s.cr.en = true) (hint : s.cr.int = false)
    (hacc : s.acc = Acc.zero) (hj : j < s.cfg.pollBudget) :
    execMoves i (sequencerMoves j ++ (.bus c b :: sequencerMoves 3)) (goto q (wrap (poll 0)) s) =
      .next (endedWith
        (checkedAcc (classify s.cfg (ok s.cfg) (statusOfCode c)) phase (statusOfCode c) (statusOfCode c &&& mask = ok s.cfg))
        (mismatchLog phase (ok s.cfg) (statusOfCode c) (statusOfCode c &&& mask = ok s.cfg)) (completeAction p.act c b s)) := by
  have hpoll := h.calls.execMoves_poll h.polls (k := 0) q hint j (by rw [Nat.zero_add]; exact hj)
  have hbus : busStep c b (goto q (wrap (poll (0 + j))) s) = goto q (wrap (poll (0 + j))) (completeAction p.act c b s) :=
    busStep_action hp hen ha
  have hhit := h.calls.execMoves_stay (s := completeAction p.act c b s) q (h.hit (goto q (wrap (poll (0 + j))) _) _ rfl)
  have hcheck := check_of_zero (s := completeAction p.act c b s) phase (ok s.cfg) mask hacc
  rw [status_eq_code] at hcheck
  rw [execMoves_append hpoll, execMoves_bus, hbus, sequencerMoves_add 1 2, execMoves_append hhit, h.execMoves_check q _ hcheck]
  rfl

/-- A bus that never completes it. -/
theorem EndsInCheck.execMoves_timeout (h : EndsInCheck i wrap f poll timeout chk phase ok mask) {s : State} (q : Seq)
    (hint : s.cr.int = false) (hacc : s.acc = Acc.zero) (hb : 1 ≤ s.cfg.pollBudget) :
    execMoves i (sequencerMoves (s.cfg.pollBudget + 3)) (goto q (wrap (poll 0)) s) =
      .next (endedWith (timeoutAcc phase s.sr.status (s.sr.status &&& mask = ok s.cfg))
        (mismatchLog phase (ok s.cfg) s.sr.status (s.sr.status &&& mask = ok s.cfg)) s) := by
  have hpoll := h.calls.execMoves_poll_timeout h.polls q hint hb
  have htimeout := h.calls.execMoves_stay (u := recordTimeout phase s) q (h.timedOut (goto q (wrap timeout) s))
  have hcheck := check_of_timeout phase (ok s.cfg) mask hacc
  rw [sequencerMoves_add _ 3, execMoves_append hpoll, sequencerMoves_add 1 2, execMoves_append htimeout, h.execMoves_check q _ hcheck]
  rfl

end

/-! ### The kind of a mismatch at a start or a receive (R87) -/

/-- The OK constants of the starts and of the receive are none of the three that are paired with a NACK constant (R9 (5)). -/
theorem classify_unpaired {p : Params} {expected : Byte} (hw : Params.wf p = true)
    (h : expected = p.startOk ∨ expected = p.repeatedStartOk ∨ expected = p.readDataOk) (st : Byte) :
    classify p expected st = .busError := by
  simp only [Params.wf, Bool.and_eq_true, decide_eq_true_eq] at hw
  obtain ⟨⟨⟨⟨⟨⟨-, hnodup⟩, -⟩, -⟩, -⟩, -⟩, -⟩ := hw
  simp only [List.nodup_cons, List.mem_cons, not_or] at hnodup
  obtain ⟨⟨-, hsw, hsr, hsd, -⟩, ⟨hpw, hpr, hpd, -⟩, ⟨-, -, hwd, -⟩, ⟨-, hrd, -⟩, ⟨hdd, -⟩, -⟩ := hnodup
  rcases h with rfl | rfl | rfl
  · simp [classify, hsw, hsr, hsd]
  · simp [classify, hpw, hpr, hpd]
  · simp [classify, Ne.symm hwd, Ne.symm hrd, Ne.symm hdd]

/-- A status value has no bits outside the full mask (R28). -/
theorem statusOfCode_and_fullMask (c : Code) : statusOfCode c &&& fullMask = statusOfCode c := by
  rw [← status_eq_code ⟨c, 0#2⟩, status_and_fullMask]

theorem pollBudget_pos {p : Params} (hw : Params.wf p = true) : 1 ≤ p.pollBudget := by
  simp only [Params.wf, Bool.and_eq_true, decide_eq_true_eq] at hw
  omega

/-! ### SEND_START and SEND_REPEATED_START (R92, R93) -/

/-- The command is SendStart or SendRepeatedStart, then finish. -/
abbrev Starts (i : Instr) (wrap : StartPt → Pos) (phase : ErrPhase) (ok : Params → Byte) : Prop :=
  EndsInCheck i wrap (fun p s => startStep phase (ok s.cfg) p s) .poll .timeout .check phase ok fullMask

theorem starts_of_calls {i : Instr} {wrap : StartPt → Pos} {phase : ErrPhase} {ok : Params → Byte}
    (hc : Calls i wrap thenFinish (fun p s => startStep phase (ok s.cfg) p s)) (hi : isComposite i = false) :
    Starts i wrap phase ok where
  calls := hc
  notComposite := hi
  polls := {
    again := fun s k hint hk => by simp [startStep, pollRead, hint, hk]
    miss := fun s k hint hk => by simp [startStep, pollRead, hint, Nat.not_lt.mpr hk] }
  hit s k hint := by simp [startStep, pollRead, hint]
  timedOut _ := rfl
  checks _ _ := rfl

theorem sendStart_starts : Starts .sendStart .start .start (·.startOk) := starts_of_calls sendStart_calls rfl

theorem sendRepeatedStart_starts : Starts .sendRepeatedStart .repeatedStart .repeatedStart (·.repeatedStartOk) :=
  starts_of_calls sendRepeatedStart_calls rfl

/-- The state just after the issue of a START. -/
def startIssued (s : State) : State := issuedIn .started .start 0#8 ⟨false, false, true, false, true⟩ s

/-- The first two moves of SendStart are its issue and the setup wait. -/
theorem Calls.execMoves_start_issue {i : Instr} {wrap : StartPt → Pos} {after : Seq → State → Bool → State} {phase : ErrPhase}
    {ok : Params → Byte} (hc : Calls i wrap after (fun p s => startStep phase (ok s.cfg) p s)) (q : Seq) (s : State) :
    execMoves i (sequencerMoves 2) (goto q (wrap .issue) s) = .next (goto q (wrap (.poll 0)) (startIssued s)) := by
  have hissue := hc.execMoves_stay (s := s) (u := startIssued s) q (startStep_issue phase _ (goto q (wrap .issue) s))
  have hdelay := hc.execMoves_stay (s := startIssued s) (u := startIssued s) q (p := .delay) rfl
  rw [sequencerMoves_add 1 1, execMoves_append hissue, hdelay]

/-- Settles O27: the issue and the setup wait, then the end of the primitive as `EndsInCheck` gives it. -/
theorem startCommandsIssueStartAndCheck : Obligations.StartCommandsIssueStartAndCheck := by
  unfold Obligations.StartCommandsIssueStartAndCheck
  intro s c b j i phase expected first hw hb hi
  have hidle : s.seq = none := busy_eq_false_iff.mp hb
  obtain ⟨wrap, ok, hstart, rfl, rfl, hkind, hfirst⟩ : ∃ wrap ok, Starts i wrap phase ok ∧ first = wrap .issue ∧
      expected = ok s.cfg ∧ (expected = s.cfg.startOk ∨ expected = s.cfg.repeatedStartOk ∨ expected = s.cfg.readDataOk) ∧
      exec i s = .next (accept i first s) := by
    rcases hi with ⟨rfl, rfl, he, rfl⟩ | ⟨rfl, rfl, he, rfl⟩
    · exact ⟨_, _, sendStart_starts, rfl, he, .inl he, exec_idle hidle⟩
    · exact ⟨_, _, sendRepeatedStart_starts, rfl, he, .inr (.inl he), exec_idle hidle⟩
  let q : Seq := { cur := encode i, pos := wrap .issue, held := 0#8 }
  let v := startIssued (accept i (wrap .issue) s)
  have hissue : execMoves i (sequencerMoves 2) (accept i (wrap .issue) s) = .next (goto q (wrap (.poll 0)) v) :=
    hstart.calls.execMoves_start_issue q (accept i (wrap .issue) s)
  refine ⟨hfirst, fun hj => ?completed, ?never⟩
  case completed =>
    have hend := hstart.execMoves_completed (s := v) q c b rfl (by simp) rfl rfl rfl hj
    rw [sequencerMoves_add 2 j, List.append_assoc, execMoves_append hissue, hend, statusOfCode_and_fullMask,
      classify_unpaired (p := v.cfg) (expected := ok v.cfg) hw hkind]
    simp [v, endedWith, startIssued, issuedIn, completeAction, actionEvents, Action.isReceive, accept, hidle]
  case never =>
    have hend := hstart.execMoves_timeout (s := v) q rfl rfl (pollBudget_pos hw)
    rw [Nat.add_assoc, sequencerMoves_add 2, execMoves_append hissue]
    refine hend.trans ?_
    rw [status_and_fullMask, hidle]
    rfl

/-! ### RECEIVE_BYTE (R99, R100) -/

theorem receiveByte_endsInCheck (ack : Bool) : EndsInCheck (.receiveByte ack) (.receive 0) (receiveStep ack) .poll .timeout .check
    .receive (·.readDataOk) receiveMask where
  calls := receiveByte_calls ack 0
  notComposite := rfl
  polls := {
    again := fun s k hint hk => by simp [receiveStep, pollRead, hint, hk]
    miss := fun s k hint hk => by simp [receiveStep, pollRead, hint, Nat.not_lt.mpr hk] }
  hit s k hint := by simp [receiveStep, pollRead, hint]
  timedOut _ := rfl
  checks _ _ := rfl

/-- The state just after the issue of a receive. -/
def receiveIssued (ack : Bool) (s : State) : State :=
  issuedIn .data (if ack then .recvAck else .recvNack) 0#8 ⟨false, ack, false, false, true⟩ s

theorem execMoves_receive_issue (ack : Bool) (q : Seq) (s : State) :
    execMoves (.receiveByte ack) (sequencerMoves 1) (goto q (.receive 0 .issue) s) =
      .next (goto q (.receive 0 (.poll 0)) (receiveIssued ack s)) :=
  (receiveByte_calls ack 0).execMoves_stay (u := receiveIssued ack s) q (receiveStep_issue ack (goto q (.receive 0 .issue) s))

/-- Settles O32: the issue, then the end of the primitive as `EndsInCheck` gives it. -/
theorem receiveByteTakesTheByteAndChecks : Obligations.ReceiveByteTakesTheByteAndChecks := by
  unfold Obligations.ReceiveByteTakesTheByteAndChecks
  intro s ack c b j hw hb act s1
  have hidle : s.seq = none := busy_eq_false_iff.mp hb
  let q : Seq := { cur := encode (.receiveByte ack), pos := .receive 0 .issue, held := 0#8 }
  let v := receiveIssued ack s1
  have hissue : execMoves (.receiveByte ack) (sequencerMoves 1) s1 = .next (goto q (.receive 0 (.poll 0)) v) :=
    execMoves_receive_issue ack q s1
  refine ⟨exec_idle hidle, fun hj => ?completed, ?never⟩
  case completed =>
    have hend := (receiveByte_endsInCheck ack).execMoves_completed (s := v) q c b rfl (by cases ack <;> simp) rfl rfl rfl hj
    rw [sequencerMoves_add 1 j, List.append_assoc, execMoves_append hissue, hend,
      classify_unpaired (p := v.cfg) hw (.inr (.inr rfl))]
    cases ack <;>
      simp [v, s1, act, endedWith, receiveIssued, issuedIn, completeAction, actionEvents, Action.isReceive, accept, hidle, receiveMask]
  case never =>
    have hend := (receiveByte_endsInCheck ack).execMoves_timeout (s := v) q rfl rfl (pollBudget_pos hw)
    rw [Nat.add_assoc, sequencerMoves_add 1, execMoves_append hissue]
    refine hend.trans ?_
    rw [hidle]
    rfl

/-! ### A receive that completes late (R137) -/

/-- GET_STATUS and GET_RECEIVED_BYTE after a pending receive completes with no command running (R85, R101, R102). -/
theorem reads_after_receive_completes {t : State} {p : Pending} (hp : t.pend = some p) (hen : t.cr.en = true)
    (hr : p.act.isReceive = true) (hb : t.busy = false) (c : Code) (b : Byte) :
    (∃ u, execMoves .getStatus (sequencerMoves 2) (accept .getStatus .readSr (busStep c b t)) = .next u ∧
      u.result = (c ++ 0#3 : Byte).setWidth 32) ∧
    (∃ u, execMoves .getReceivedByte (sequencerMoves 2) (accept .getReceivedByte .readDr (busStep c b t)) = .next u ∧
      u.result = b.setWidth 32) := by
  have ha : p.act ≠ .stop := fun h => by rw [h] at hr; cases hr
  rw [busStep_action hp hen ha]
  obtain ⟨⟨-, hreceived⟩, -, hstatus⟩ := getCommandsReturnDrAndStatus (completeAction p.act c b t) hb
  exact ⟨⟨_, hstatus, rfl⟩, _, hreceived, by simp [completeAction, hr]⟩

/-- Settles O46: RECEIVE_BYTE to its timeout, then the late completion and the two commands that read SR and DR. -/
theorem lateReceiveCompletionIsVisible : Obligations.LateReceiveCompletionIsVisible := by
  unfold Obligations.LateReceiveCompletionIsVisible
  intro s ack c b hw hb
  obtain ⟨-, -, hrun⟩ := receiveByteTakesTheByteAndChecks s ack c b 0 hw hb
  refine ⟨_, hrun, hb, rfl, rfl, rfl, reads_after_receive_completes rfl rfl ?_ ?_ c b⟩
  · cases ack <;> rfl
  · exact hb

end Sys2Proof.Machine
end

section
/-! SEND_BYTE (R90, R95 of 41_primitives.md): SendByte without a post-check, so the end of its poll, or its Timeout, is the end of the
procedure. -/

namespace Sys2Proof.Machine

/-- Settles O29: the load and the issue, the poll, and the return of the procedure where the poll ends. -/
theorem sendByteSendsWithoutPostCheck : Obligations.SendByteSendsWithoutPostCheck := by
  unfold Obligations.SendByteSendsWithoutPostCheck
  intro s x c b j hw hb hint
  have hidle : s.seq = none := busy_eq_false_iff.mp hb
  have hcalls := sendByte_calls x
  have hpolls := sendStep_polls x .byte .data fun _ => none
  let q : Seq := { cur := encode (.sendByte x), pos := .byte .ready, held := 0#8 }
  let v := sendIssued x .data (accept (.sendByte x) (.byte .ready) s)
  have hissue : execMoves (.sendByte x) (sequencerMoves 3) (accept (.sendByte x) (.byte .ready) s) =
      .next (goto q (.byte (.poll 0)) v) :=
    Calls.execMoves_send_issue (e := fun _ => none) hcalls (s := accept (.sendByte x) (.byte .ready) s) q hint
  refine ⟨exec_idle hidle, fun hj => ?completed, ?never⟩
  case completed =>
    let w := completeAction .send c b v
    have hpoll := hcalls.execMoves_poll hpolls (s := v) (k := 0) q rfl j (by rw [Nat.zero_add]; exact hj)
    have hbus : busStep c b (goto q (.byte (.poll (0 + j))) v) = goto q (.byte (.poll (0 + j))) w :=
      busStep_action (p := ⟨.send, x⟩) rfl rfl (by simp)
    have hend := hcalls.execMoves_ret_finish rfl (s := w) (p := .poll (0 + j)) q rfl
    rw [sequencerMoves_add 3 j, List.append_assoc, execMoves_append hissue, execMoves_append hpoll, execMoves_bus, hbus, hend]
    simp [w, v, sendIssued, completeAction, actionEvents, Action.isReceive, accept, goto, hidle, pack_zero]
  case never =>
    have hpoll := hcalls.execMoves_poll_timeout hpolls (s := v) q rfl (pollBudget_pos hw)
    have hend := hcalls.execMoves_ret_finish rfl (s := v) (p := .timeout) q rfl
    rw [Nat.add_assoc, sequencerMoves_add 3, execMoves_append hissue, sequencerMoves_add _ 2]
    refine (execMoves_append hpoll).trans (hend.trans ?_)
    rw [hidle]
    rfl

end Sys2Proof.Machine
end

section
/-! Which primitive a position stands in, and the step of that primitive as exec, in every command that has it (R90, R92 to R99 of
41_primitives.md; R103, R109 to R112 of 42_transactions.md). -/

namespace Sys2Proof.Machine

/-! ### Sites of the primitives -/

/-- Where SendStart and SendRepeatedStart stand, with the phase and the expected status of each. -/
inductive StartSite : (StartPt → Pos) → ErrPhase → (Params → Byte) → Prop where
  | start : StartSite .start .start (·.startOk)
  | repeatedStart : StartSite .repeatedStart .repeatedStart (·.repeatedStartOk)

/-- Where SendByte stands, with the error phase, HSTAT.PHASE and the expected status, none at SEND_BYTE. -/
inductive SendSite : (SendPt → Pos) → ErrPhase → Phase → (Params → Option Byte) → Prop where
  | byte : SendSite .byte .byte .data (fun _ => none)
  | writeAddress : SendSite .writeAddress .address .addressed (fun p => some p.writeAddressOk)
  | readAddress : SendSite .readAddress .address .addressed (fun p => some p.readAddressOk)
  | subAddress : SendSite .subAddress .data .data (fun p => some p.writeDataOk)
  | data (k : Nat) : SendSite (.data k) .data .data (fun p => some p.writeDataOk)

/-- Does a primitive that returned `ok` take the abort path (R104)? -/
def aborts (i : Instr) (s : State) (ok : Bool) : Bool := isComposite i && (s.hardened && !ok)

/-- A primitive has returned `ok`: in a composite the abort path or the position after a passing check with its VALUE, in a primitive
command finish (R70 of 30_encoding.md; R103, R104). -/
def afterPrimitive (i : Instr) (q : Seq) (s : State) (ok : Bool) : State :=
  if aborts i s ok then abort q s
  else goto q ((afterCheck i q.pos).getD .finish) (setValue (valueAfterCheck i q.pos s.acc.value) s)

/-- In a primitive command that is finish, whatever was returned. -/
theorem afterPrimitive_command {i : Instr} (hi : isComposite i = false) (q : Seq) : afterPrimitive i q = thenFinish q := by
  cases i with
  | readRegister | readRegisters | writeRegister | writeRegisters => cases hi
  | _ => rfl

/-! ### The step of a primitive as exec -/

section
variable {i : Instr} {s : State} {q : Seq}

theorem StartSite.exec_eq {wrap : StartPt → Pos} {phase : ErrPhase} {ok : Params → Byte} (h : StartSite wrap phase ok) {p0 p : StartPt}
    (hs : hasStep i (wrap p0) = true) (hq : s.seq = some q) (hp : q.pos = wrap p) :
    exec i s = call q wrap (afterPrimitive i q) (startStep phase (ok s.cfg) p s) := by
  obtain ⟨cur, pos, held⟩ := q
  obtain rfl : pos = wrap p := hp
  cases h with
  | start =>
    cases i
    case sendStart | readRegister | readRegisters | writeRegister | writeRegisters =>
      simp only [exec, execSendStart, execReadRegister, execReadRegisters, execWriteRegister, execWriteRegisters, command_running hq]
      rfl
    all_goals cases hs
  | repeatedStart =>
    cases i
    case sendRepeatedStart | readRegister | readRegisters =>
      simp only [exec, execSendRepeatedStart, execReadRegister, execReadRegisters, command_running hq]
      rfl
    all_goals cases hs

theorem SendSite.exec_eq {wrap : SendPt → Pos} {phase : ErrPhase} {ph : Phase} {e : Params → Option Byte} (h : SendSite wrap phase ph e)
    {p0 p : SendPt} (hs : hasStep i (wrap p0) = true) (hq : s.seq = some q) (hp : q.pos = wrap p) :
    ∃ x, exec i s = call q wrap (afterPrimitive i q) (sendStep x phase ph (e s.cfg) p s) := by
  obtain ⟨cur, pos, held⟩ := q
  obtain rfl : pos = wrap p := hp
  cases h with
  | byte =>
    cases i
    case sendByte x => exact ⟨x, by simp only [exec, execSendByte, command_running hq]; rfl⟩
    all_goals cases hs
  | writeAddress =>
    cases i
    case sendWriteAddress a | readRegister a _ | readRegisters a _ _ | writeRegister a _ _ | writeRegisters a _ _ =>
      refine ⟨addressByte a false, ?_⟩
      simp only [exec, execSendWriteAddress, execReadRegister, execReadRegisters, execWriteRegister, execWriteRegisters,
        command_running hq]
      rfl
    all_goals cases hs
  | readAddress =>
    cases i
    case sendReadAddress a | readRegister a _ =>
      exact ⟨addressByte a true, by simp only [exec, execSendReadAddress, execReadRegister, command_running hq]; rfl⟩
    case readRegisters a _ n =>
      exact ⟨addressByte a true, by simp only [exec, execReadRegisters, command_running hq, readNext_zero]; rfl⟩
    all_goals cases hs
  | subAddress =>
    cases i
    case readRegister _ r | readRegisters _ r _ | writeRegister _ r _ =>
      refine ⟨r, ?_⟩
      simp only [exec, execReadRegister, execReadRegisters, execWriteRegister, command_running hq]
      rfl
    case writeRegisters _ r n =>
      exact ⟨r, by simp only [exec, execWriteRegisters, command_running hq, writeNext_zero]; rfl⟩
    all_goals cases hs
  | data k =>
    cases i
    case sendData x | writeRegister _ _ x =>
      exact ⟨x, by simp only [exec, execSendData, execWriteRegister, command_running hq]; rfl⟩
    case writeRegisters => exact ⟨held, by simp only [exec, execWriteRegisters, command_running hq]; rfl⟩
    all_goals cases hs

theorem receive_exec_eq {k : Nat} {p0 p : RecvPt} (hs : hasStep i (.receive k p0) = true) (hq : s.seq = some q)
    (hp : q.pos = .receive k p) :
    ∃ ack, exec i s = call q (.receive k) (afterPrimitive i q) (receiveStep ack p s) := by
  obtain ⟨cur, pos, held⟩ := q
  obtain rfl : pos = .receive k p := hp
  cases i
  case receiveByte ack => exact ⟨ack, by simp only [exec, execReceiveByte, command_running hq]; rfl⟩
  case readRegister => exact ⟨false, by simp only [exec, execReadRegister, command_running hq]; rfl⟩
  case readRegisters _ _ n => exact ⟨burstAck (count n) k, by simp only [exec, execReadRegisters, command_running hq]; rfl⟩
  all_goals cases hs

/-- A step inside SendByte, whatever the byte sent. -/
theorem SendSite.exec_stay {wrap : SendPt → Pos} {phase : ErrPhase} {ph : Phase} {e : Params → Option Byte} (h : SendSite wrap phase ph e)
    {p0 p p' : SendPt} {u : State} (hs : hasStep i (wrap p0) = true) (hq : s.seq = some q) (hp : q.pos = wrap p)
    (hf : ∀ x, sendStep x phase ph (e s.cfg) p s = .stay u p') : exec i s = .next (goto q (wrap p') u) := by
  obtain ⟨x, hx⟩ := h.exec_eq hs hq hp
  rw [hx, hf]
  rfl

/-- A step inside ReceiveByte, whatever the acknowledge choice. -/
theorem receive_exec_stay {k : Nat} {p0 p p' : RecvPt} {u : State} (hs : hasStep i (.receive k p0) = true) (hq : s.seq = some q)
    (hp : q.pos = .receive k p) (hf : ∀ ack, receiveStep ack p s = .stay u p') :
    exec i s = .next (goto q (.receive k p') u) := by
  obtain ⟨ack, hx⟩ := receive_exec_eq hs hq hp
  rw [hx, hf]
  rfl

end

/-! ### Runs that count reads -/

theorem goto_self {s : State} {q : Seq} {p : Pos} (hq : s.seq = some q) (hp : q.pos = p) : goto q p s = s := by
  subst hp
  rw [goto, ← hq]

/-- `n` steps that each change the counter of a position alone. -/
theorem execMoves_counts {i : Instr} {s : State} {q : Seq} {pos : Nat → Pos} (n : Nat)
    (h : ∀ k, k < n → exec i (goto q (pos k) s) = .next (goto q (pos (k + 1)) s)) :
    execMoves i (sequencerMoves n) (goto q (pos 0) s) = .next (goto q (pos n) s) := by
  induction n with
  | zero => rfl
  | succ n ih =>
    rw [sequencerMoves_add n 1, execMoves_append (ih fun k hk => h k (by omega))]
    exact execMoves_one rfl (h n (by omega))

/-! ### Completion polls (R81) -/

/-- In command `i` the positions `pos k` are those of one completion poll, `k` the number of reads made: what one more read does. -/
structure PollsAt (i : Instr) (pos : Nat → Pos) (timeout done : Pos) : Prop where
  again : ∀ {s : State} {q : Seq} {k : Nat}, s.seq = some q → q.pos = pos k → s.cr.int = false → k + 1 < s.cfg.pollBudget →
    exec i s = .next (goto q (pos (k + 1)) s)
  miss : ∀ {s : State} {q : Seq} {k : Nat}, s.seq = some q → q.pos = pos k → s.cr.int = false → s.cfg.pollBudget ≤ k + 1 →
    exec i s = .next (goto q timeout s)
  hit : ∀ {s : State} {q : Seq} {k : Nat}, s.seq = some q → q.pos = pos k → s.cr.int = true → exec i s = .next (goto q done s)

theorem StartSite.pollsAt {wrap : StartPt → Pos} {phase : ErrPhase} {ok : Params → Byte} (h : StartSite wrap phase ok) {i : Instr}
    {p0 : StartPt} (hs : hasStep i (wrap p0) = true) :
    PollsAt i (fun k => wrap (.poll k)) (wrap .timeout) (wrap (.check true)) where
  again hq hp hint hk := by rw [h.exec_eq hs hq hp]; simp [startStep, pollRead, hint, hk, call]
  miss hq hp hint hk := by rw [h.exec_eq hs hq hp]; simp [startStep, pollRead, hint, Nat.not_lt.mpr hk, call]
  hit hq hp hint := by rw [h.exec_eq hs hq hp]; simp [startStep, pollRead, hint, call]

theorem receive_pollsAt {i : Instr} {k : Nat} {p0 : RecvPt} (hs : hasStep i (.receive k p0) = true) :
    PollsAt i (fun j => .receive k (.poll j)) (.receive k .timeout) (.receive k (.check true)) where
  again hq hp hint hk := receive_exec_stay hs hq hp fun ack => by simp [receiveStep, pollRead, hint, hk]
  miss hq hp hint hk := receive_exec_stay hs hq hp fun ack => by simp [receiveStep, pollRead, hint, Nat.not_lt.mpr hk]
  hit hq hp hint := receive_exec_stay hs hq hp fun ack => by simp [receiveStep, pollRead, hint]

/-- SendByte with a post-check. -/
theorem SendSite.pollsAt_checked {wrap : SendPt → Pos} {phase : ErrPhase} {ph : Phase} {ok : Params → Byte}
    (h : SendSite wrap phase ph fun p => some (ok p)) {i : Instr} {p0 : SendPt} (hs : hasStep i (wrap p0) = true) :
    PollsAt i (fun k => wrap (.poll k)) (wrap .timeout) (wrap (.check true)) where
  again hq hp hint hk := h.exec_stay hs hq hp fun x => by simp [sendStep, pollRead, hint, hk]
  miss hq hp hint hk := h.exec_stay hs hq hp fun x => by simp [sendStep, pollRead, hint, Nat.not_lt.mpr hk]
  hit hq hp hint := h.exec_stay hs hq hp fun x => by simp [sendStep, pollRead, hint]

/-- SEND_BYTE makes no post-check: the read that finds INT = 1 ends the procedure. -/
theorem sendByte_pollsAt (x : Byte) : PollsAt (.sendByte x) (fun k => .byte (.poll k)) (.byte .timeout) .finish where
  again hq hp hint hk := (sendByte_calls x).exec_stay hq hp (by simp [sendStep, pollRead, hint, hk])
  miss hq hp hint hk := (sendByte_calls x).exec_stay hq hp (by simp [sendStep, pollRead, hint, Nat.not_lt.mpr hk])
  hit hq hp hint := (sendByte_calls x).exec_ret hq hp (by simp [sendStep, pollRead, hint]; rfl)

/-- Every completion poll of every command. -/
theorem exists_pollsAt {i : Instr} {p p0 : Pos} (hs : hasStep i p = true) (h0 : pollWith p 0 = some p0) :
    ∃ pos timeout done, PollsAt i pos timeout done ∧ (∀ k, pollWith p k = some (pos k)) ∧ pollTimeout p = some timeout ∧
      pollDone p = some done := by
  cases p with
  | start r =>
    cases r with
    | poll k => exact ⟨_, _, _, StartSite.start.pollsAt hs, fun _ => rfl, rfl, rfl⟩
    | _ => cases h0
  | repeatedStart r =>
    cases r with
    | poll k => exact ⟨_, _, _, StartSite.repeatedStart.pollsAt hs, fun _ => rfl, rfl, rfl⟩
    | _ => cases h0
  | byte r =>
    cases r with
    | poll k =>
      cases i with
      | sendByte x => exact ⟨_, _, _, sendByte_pollsAt x, fun _ => rfl, rfl, rfl⟩
      | _ => cases hs
    | _ => cases h0
  | writeAddress r =>
    cases r with
    | poll k => exact ⟨_, _, _, SendSite.writeAddress.pollsAt_checked hs, fun _ => rfl, rfl, rfl⟩
    | _ => cases h0
  | readAddress r =>
    cases r with
    | poll k => exact ⟨_, _, _, SendSite.readAddress.pollsAt_checked hs, fun _ => rfl, rfl, rfl⟩
    | _ => cases h0
  | subAddress r =>
    cases r with
    | poll k => exact ⟨_, _, _, SendSite.subAddress.pollsAt_checked hs, fun _ => rfl, rfl, rfl⟩
    | _ => cases h0
  | data j r =>
    cases r with
    | poll k => exact ⟨_, _, _, (SendSite.data j).pollsAt_checked hs, fun _ => rfl, rfl, rfl⟩
    | _ => cases h0
  | receive j r =>
    cases r with
    | poll k => exact ⟨_, _, _, receive_pollsAt hs, fun _ => rfl, rfl, rfl⟩
    | _ => cases h0
  | _ => cases h0

/-- `n` reads of a completion poll that find INT = 0, within the budget. -/
theorem PollsAt.execMoves_reads {i : Instr} {pos : Nat → Pos} {timeout done : Pos} (h : PollsAt i pos timeout done) {s : State} (q : Seq)
    (hint : s.cr.int = false) {n : Nat} (hn : n < s.cfg.pollBudget) :
    execMoves i (sequencerMoves n) (goto q (pos 0) s) = .next (goto q (pos n) s) :=
  execMoves_counts n fun k hk => h.again (s := goto q (pos k) s) (q := { q with pos := pos k }) rfl rfl hint (by rw [goto_cfg]; omega)

/-- Settles O41: every completion poll is a `PollsAt`, whose reads before the last of the budget only count. -/
theorem completionPollMakesExactlyItsBudgetOfReads : Obligations.CompletionPollMakesExactlyItsBudgetOfReads := by
  unfold Obligations.CompletionPollMakesExactlyItsBudgetOfReads
  intro i s q p0 pt pd hbudget hq hf h0 hp0 ht hd
  obtain ⟨pos, timeout, done, hpoll, hpos, htimeout, hdone⟩ := exists_pollsAt (hasStep_of_posFits hf) h0
  obtain rfl : timeout = pt := Option.some.inj (htimeout.symm.trans ht)
  obtain rfl : done = pd := Option.some.inj (hdone.symm.trans hd)
  have hat : ∀ {j pj}, pollWith q.pos j = some pj → pj = pos j := fun hj => Option.some.inj (hj.symm.trans (hpos _))
  have hs : goto q (pos 0) s = s := goto_self hq (hp0.trans (hat h0))
  refine ⟨fun hint => ⟨fun j pj hj hpj => ?_, ?_⟩, fun j pj hint hpj => ?_⟩
  · rw [hat hpj]
    have hreads := hpoll.execMoves_reads q hint hj
    rwa [hs] at hreads
  · obtain ⟨n, hn⟩ : ∃ n, s.cfg.pollBudget = n + 1 := ⟨s.cfg.pollBudget - 1, by omega⟩
    have hreads := hpoll.execMoves_reads q hint (n := n) (by omega)
    rw [hs] at hreads
    rw [hn, sequencerMoves_add n 1, execMoves_append hreads]
    exact execMoves_one rfl (hpoll.miss (s := goto q (pos n) s) (q := { q with pos := pos n }) rfl rfl hint hn.le)
  · rw [hat hpj]
    exact hpoll.hit (s := goto q (pos j) s) (q := { q with pos := pos j }) rfl rfl hint

end Sys2Proof.Machine
end

section
/-! The pre-check of SendByte (R90 of 41_primitives.md): its wait for INT = 1 in every command that has it, without a bound in FAITHFUL mode
(R136 of 70_reset_and_hazards.md). -/

namespace Sys2Proof.Machine

/-! ### Steps of the pre-check -/

section
variable {i : Instr} {wrap : SendPt → Pos} {phase : ErrPhase} {ph : Phase} {e : Params → Option Byte} {p0 : SendPt}

/-- A step inside SendByte that changes the position alone. -/
theorem SendSite.exec_goto (h : SendSite wrap phase ph e) (hs : hasStep i (wrap p0) = true) {s : State} {p p' : SendPt} (q : Seq)
    (hf : ∀ x, sendStep x phase ph (e s.cfg) p (goto q (wrap p) s) = .stay (goto q (wrap p) s) p') :
    exec i (goto q (wrap p) s) = .next (goto q (wrap p') s) :=
  h.exec_stay (u := goto q (wrap p) s) (q := { q with pos := wrap p }) hs rfl rfl hf

theorem SendSite.exec_ready (h : SendSite wrap phase ph e) (hs : hasStep i (wrap p0) = true) {s : State} (q : Seq)
    (hint : s.cr.int = false) : exec i (goto q (wrap .ready) s) = .next (goto q (wrap (.wait 0)) s) :=
  h.exec_goto hs q fun x => by simp [sendStep, hint]

theorem SendSite.exec_wait_hit (h : SendSite wrap phase ph e) (hs : hasStep i (wrap p0) = true) {s : State} {k : Nat} (q : Seq)
    (hint : s.cr.int = true) : exec i (goto q (wrap (.wait k)) s) = .next (goto q (wrap .load) s) :=
  h.exec_goto hs q fun x => by simp [sendStep, pollRead, hint]

theorem SendSite.exec_wait_again (h : SendSite wrap phase ph e) (hs : hasStep i (wrap p0) = true) {s : State} {k : Nat} (q : Seq)
    (hint : s.cr.int = false) (hk : k + 1 < s.cfg.pollBudget) :
    exec i (goto q (wrap (.wait k)) s) = .next (goto q (wrap (.wait (k + 1))) s) :=
  h.exec_goto hs q fun x => by simp [sendStep, pollRead, hint, hk]

/-- FAITHFUL: the budget's last read starts the wait again. -/
theorem SendSite.exec_wait_retry (h : SendSite wrap phase ph e) (hs : hasStep i (wrap p0) = true) {s : State} {k : Nat} (q : Seq)
    (hint : s.cr.int = false) (hk : s.cfg.pollBudget ≤ k + 1) (hm : s.cfg.mode = .faithful) :
    exec i (goto q (wrap (.wait k)) s) = .next (goto q (wrap (.wait 0)) s) :=
  h.exec_goto hs q fun x => by
    simp [sendStep, pollRead, hint, Nat.not_lt.mpr hk, State.hardened, hm]

/-- HARDENED: the budget's last read gives up. -/
theorem SendSite.exec_wait_miss (h : SendSite wrap phase ph e) (hs : hasStep i (wrap p0) = true) {s : State} {k : Nat} (q : Seq)
    (hint : s.cr.int = false) (hk : s.cfg.pollBudget ≤ k + 1) (hm : s.cfg.mode = .hardened) :
    exec i (goto q (wrap (.wait k)) s) = .next (goto q (wrap .waitTimeout) s) :=
  h.exec_goto hs q fun x => by
    simp [sendStep, pollRead, hint, Nat.not_lt.mpr hk, State.hardened, hm]

/-- In a primitive command the Timeout of the pre-check ends the command without a send. -/
theorem SendSite.execMoves_waitTimeout (h : SendSite wrap phase ph e) (hs : hasStep i (wrap p0) = true) (hi : isComposite i = false)
    (q : Seq) (s : State) : execMoves i (sequencerMoves 2) (goto q (wrap .waitTimeout) s) =
      .next { recordTimeout phase s with result := pack (recordTimeout phase s).acc, seq := none } := by
  have hret : exec i (goto q (wrap .waitTimeout) s) = .next (goto q .finish (recordTimeout phase s)) := by
    obtain ⟨x, hx⟩ := h.exec_eq (s := goto q (wrap .waitTimeout) s) (q := { q with pos := wrap .waitTimeout }) hs rfl rfl
    rw [hx, afterPrimitive_command hi]
    rfl
  rw [sequencerMoves_add 1 1, execMoves_append (execMoves_one rfl hret), execMoves_finish, finishOf, hi]
  rfl

/-! ### Runs of the wait -/

/-- Reads of the wait that find INT = 0, in HARDENED mode within the budget, change its counter alone. -/
theorem SendSite.execMoves_wait (h : SendSite wrap phase ph e) (hs : hasStep i (wrap p0) = true) {s : State} (q : Seq)
    (hint : s.cr.int = false) (n k : Nat) (hm : s.cfg.mode = .faithful ∨ k + n < s.cfg.pollBudget) :
    ∃ k', execMoves i (sequencerMoves n) (goto q (wrap (.wait k)) s) = .next (goto q (wrap (.wait k')) s) := by
  induction n generalizing k with
  | zero => exact ⟨k, rfl⟩
  | succ n ih =>
    by_cases hk : k + 1 < s.cfg.pollBudget
    · obtain ⟨k', hrun⟩ := ih (k + 1) (hm.imp_right fun hn => by omega)
      exact ⟨k', (execMoves_succ n rfl (h.exec_wait_again hs q hint hk)).trans hrun⟩
    · have hf : s.cfg.mode = .faithful := hm.resolve_right (by omega)
      obtain ⟨k', hrun⟩ := ih 0 (.inl hf)
      exact ⟨k', (execMoves_succ n rfl (h.exec_wait_retry hs q hint (Nat.not_lt.mp hk) hf)).trans hrun⟩

/-- HARDENED: a wait without a completion makes the reads of its budget and gives up. -/
theorem SendSite.execMoves_wait_timeout (h : SendSite wrap phase ph e) (hs : hasStep i (wrap p0) = true) {s : State} (q : Seq)
    (hint : s.cr.int = false) (hm : s.cfg.mode = .hardened) (hb : 1 ≤ s.cfg.pollBudget) :
    execMoves i (sequencerMoves s.cfg.pollBudget) (goto q (wrap (.wait 0)) s) = .next (goto q (wrap .waitTimeout) s) := by
  obtain ⟨n, hn⟩ : ∃ n, s.cfg.pollBudget = n + 1 := ⟨s.cfg.pollBudget - 1, by omega⟩
  have hreads := execMoves_counts (i := i) (s := s) (q := q) (pos := fun k => wrap (.wait k)) n
    fun k hk => h.exec_wait_again hs q hint (by omega)
  rw [hn, sequencerMoves_add n 1, execMoves_append hreads]
  exact execMoves_one rfl (h.exec_wait_miss hs q hint hn.le hm)

end

/-- The site of every wait. -/
theorem exists_sendSite_of_waitWith {p p0 : Pos} (h0 : waitWith p 0 = some p0) :
    ∃ wrap phase ph e k, SendSite wrap phase ph e ∧ p = wrap (.wait k) ∧ ∀ j, waitWith p j = some (wrap (.wait j)) := by
  cases p with
  | byte r =>
    cases r with
    | wait k => exact ⟨_, _, _, _, k, .byte, rfl, fun _ => rfl⟩
    | _ => cases h0
  | writeAddress r =>
    cases r with
    | wait k => exact ⟨_, _, _, _, k, .writeAddress, rfl, fun _ => rfl⟩
    | _ => cases h0
  | readAddress r =>
    cases r with
    | wait k => exact ⟨_, _, _, _, k, .readAddress, rfl, fun _ => rfl⟩
    | _ => cases h0
  | subAddress r =>
    cases r with
    | wait k => exact ⟨_, _, _, _, k, .subAddress, rfl, fun _ => rfl⟩
    | _ => cases h0
  | data m r =>
    cases r with
    | wait k => exact ⟨_, _, _, _, k, .data m, rfl, fun _ => rfl⟩
    | _ => cases h0
  | _ => cases h0

/-- Settles O31: the wait ends at the read after a completion, in HARDENED mode at the end of its budget, in FAITHFUL mode not at all. -/
theorem sendPreCheckWaitsForTheCompletionFlag : Obligations.SendPreCheckWaitsForTheCompletionFlag := by
  unfold Obligations.SendPreCheckWaitsForTheCompletionFlag
  refine ⟨fun s x a c b j i phase wrap hw hb hint hi => ?_, fun i s q p0 n hm hq hf h0 hint => ?_⟩
  · obtain ⟨ph, e, hsite, hs, hi⟩ : ∃ ph e, SendSite wrap phase ph e ∧ hasStep i (wrap .ready) = true ∧ isComposite i = false := by
      rcases hi with ⟨rfl, rfl, rfl⟩ | ⟨rfl, rfl, rfl⟩ | ⟨rfl, rfl, rfl⟩ | ⟨rfl, rfl, rfl⟩
      · exact ⟨_, _, .byte, rfl, rfl⟩
      · exact ⟨_, _, .writeAddress, rfl, rfl⟩
      · exact ⟨_, _, .readAddress, rfl, rfl⟩
      · exact ⟨_, _, .data 0, rfl, rfl⟩
    let v := accept i (wrap .ready) s
    let q : Seq := { cur := encode i, pos := wrap .ready, held := 0#8 }
    have hready : execMoves i (sequencerMoves 1) v = .next (goto q (wrap (.wait 0)) v) :=
      execMoves_one rfl (hsite.exec_ready hs (s := v) q hint)
    refine ⟨?completes, fun hm => ?never⟩
    case completes =>
      rintro ⟨p, hp, ha, hen⟩ hj
      obtain ⟨k, hwait⟩ := hsite.execMoves_wait hs (s := v) q hint j 0 (by rwa [Nat.zero_add])
      have hbus : busStep c b (goto q (wrap (.wait k)) v) = goto q (wrap (.wait k)) (completeAction p.act c b v) :=
        busStep_action hp hen ha
      refine ⟨goto q (wrap .load) (completeAction p.act c b v), ?_, rfl, rfl, rfl⟩
      rw [sequencerMoves_add 1 j, List.append_assoc, execMoves_append hready, execMoves_append hwait, execMoves_bus, hbus]
      exact execMoves_one rfl (hsite.exec_wait_hit hs (s := completeAction p.act c b v) q rfl)
    case never =>
      have hwait := hsite.execMoves_wait_timeout hs (s := v) q hint hm (pollBudget_pos hw)
      have hend := hsite.execMoves_waitTimeout hs hi q v
      rw [Nat.add_assoc, sequencerMoves_add 1, execMoves_append hready, sequencerMoves_add _ 2]
      refine (execMoves_append hwait).trans (hend.trans ?_)
      simp [v, accept, recordTimeout, zero_timedOut, busy_eq_false_iff.mp hb]
  · obtain ⟨wrap, phase, ph, e, k, hsite, hp, hwait⟩ := exists_sendSite_of_waitWith h0
    have hs : hasStep i (wrap (.wait k)) = true := by rw [← hp]; exact hasStep_of_posFits hf
    obtain ⟨k', hrun⟩ := hsite.execMoves_wait hs q hint n k (.inl hm)
    rw [goto_self hq hp] at hrun
    exact ⟨k', _, hwait k', hrun⟩

end Sys2Proof.Machine
end

section
/-! Post-checks inside a composite (R86, R87 of 41_primitives.md; R103, R104, R109 to R112 of 42_transactions.md): the step of a post-check
as exec, and what it leaves. -/

namespace Sys2Proof.Machine

/-! ### What a primitive's return leaves -/

section
variable (i : Instr) (q : Seq) (s : State) (ok : Bool)

@[simp] theorem afterPrimitive_cr : (afterPrimitive i q s ok).cr = s.cr := by unfold afterPrimitive; split <;> rfl
@[simp] theorem afterPrimitive_sr : (afterPrimitive i q s ok).sr = s.sr := by unfold afterPrimitive; split <;> rfl
@[simp] theorem afterPrimitive_dr : (afterPrimitive i q s ok).dr = s.dr := by unfold afterPrimitive; split <;> rfl
@[simp] theorem afterPrimitive_pend : (afterPrimitive i q s ok).pend = s.pend := by unfold afterPrimitive; split <;> rfl
@[simp] theorem afterPrimitive_log : (afterPrimitive i q s ok).log = s.log := by unfold afterPrimitive; split <;> rfl
@[simp] theorem afterPrimitive_busev : (afterPrimitive i q s ok).busev = s.busev := by unfold afterPrimitive; split <;> rfl
@[simp] theorem afterPrimitive_mismatch : (afterPrimitive i q s ok).acc.mismatch = s.acc.mismatch := by
  unfold afterPrimitive; split <;> rfl
@[simp] theorem afterPrimitive_errKind : (afterPrimitive i q s ok).acc.errKind = s.acc.errKind := by
  unfold afterPrimitive; split <;> rfl
@[simp] theorem afterPrimitive_errPhase : (afterPrimitive i q s ok).acc.errPhase = s.acc.errPhase := by
  unfold afterPrimitive; split <;> rfl
@[simp] theorem afterPrimitive_errStatus : (afterPrimitive i q s ok).acc.errStatus = s.acc.errStatus := by
  unfold afterPrimitive; split <;> rfl

theorem afterPrimitive_seq : (afterPrimitive i q s ok).seq =
    some { q with pos := if aborts i s ok then .stop .issue else (afterCheck i q.pos).getD .finish } := by
  unfold afterPrimitive; split <;> rfl

theorem afterPrimitive_aborted : (afterPrimitive i q s ok).acc.aborted = (aborts i s ok || s.acc.aborted) := by
  unfold afterPrimitive; split <;> simp_all

theorem afterPrimitive_value : (afterPrimitive i q s ok).acc.value =
    if aborts i s ok then s.acc.value else valueAfterCheck i q.pos s.acc.value := by
  unfold afterPrimitive; split <;> rfl

end

/-! ### The step of a post-check -/

/-- The position of a post-check is its own step of exec (R86). -/
theorem exec_check {i : Instr} {s : State} {q : Seq} {c : Bool} {phase : ErrPhase} {expected mask : Byte} (hs : hasStep i q.pos = true)
    (hq : s.seq = some q) (hc : checkSite s.cfg q.pos = some (c, phase, expected, mask)) :
    exec i s = .next (afterPrimitive i q (check phase expected mask s) (c && checkOk expected mask s)) := by
  obtain ⟨cur, pos, held⟩ := q
  have send : ∀ {wrap : SendPt → Pos} {ph : Phase} {ok : Params → Byte}, SendSite wrap phase ph (fun p => some (ok p)) →
      hasStep i (wrap (.check c)) = true → pos = wrap (.check c) → ok s.cfg = expected → fullMask = mask →
      exec i s = .next (afterPrimitive i ⟨cur, pos, held⟩ (check phase expected mask s) (c && checkOk expected mask s)) := by
    rintro wrap ph ok hsite hs rfl rfl rfl
    obtain ⟨x, hx⟩ := hsite.exec_eq hs hq rfl
    exact hx
  cases pos with
  | start r =>
    cases r with
    | check c' => cases hc; exact StartSite.start.exec_eq hs hq rfl
    | _ => cases hc
  | repeatedStart r =>
    cases r with
    | check c' => cases hc; exact StartSite.repeatedStart.exec_eq hs hq rfl
    | _ => cases hc
  | writeAddress r =>
    cases r with
    | check c' => cases hc; exact send .writeAddress hs rfl rfl rfl
    | _ => cases hc
  | readAddress r =>
    cases r with
    | check c' => cases hc; exact send .readAddress hs rfl rfl rfl
    | _ => cases hc
  | subAddress r =>
    cases r with
    | check c' => cases hc; exact send .subAddress hs rfl rfl rfl
    | _ => cases hc
  | data k r =>
    cases r with
    | check c' => cases hc; exact send (.data k) hs rfl rfl rfl
    | _ => cases hc
  | receive k r =>
    cases r with
    | check c' =>
      cases hc
      obtain ⟨ack, hx⟩ := receive_exec_eq hs hq rfl
      exact hx
    | _ => cases hc
  | _ => cases hc

/-- Every post-check of a composite has a position after it (R109 to R112). -/
theorem exists_afterCheck {i : Instr} {p : Pos} {cfg : Params} {site : Bool × ErrPhase × Byte × Byte} (hi : isComposite i = true)
    (hs : hasStep i p = true) (hc : checkSite cfg p = some site) : ∃ p', afterCheck i p = some p' := by
  cases i with
  | readRegister | readRegisters =>
    cases p with
    | start | repeatedStart | writeAddress | readAddress | subAddress | receive => exact ⟨_, rfl⟩
    | data => cases hs
    | _ => cases hc
  | writeRegister | writeRegisters =>
    cases p with
    | start | writeAddress | subAddress | data => exact ⟨_, rfl⟩
    | repeatedStart | readAddress | receive => cases hs
    | _ => cases hc
  | _ => cases hi

/-! ### What a post-check records (R86, R115) -/

theorem checkOk_iff {expected mask : Byte} {s : State} : checkOk expected mask s = true ↔ s.sr.status &&& mask = expected := by
  simp [checkOk, statusPasses]

theorem check_of_pass {expected mask : Byte} {s : State} (phase : ErrPhase) (h : s.sr.status &&& mask = expected) :
    check phase expected mask s = s := if_pos (checkOk_iff.mpr h)

theorem check_of_fail {expected mask : Byte} {s : State} (phase : ErrPhase) (h : s.sr.status &&& mask ≠ expected) :
    check phase expected mask s = recordMismatch phase expected s := if_neg (mt checkOk_iff.mp h)

@[simp] theorem Acc.err_value (a : Acc) (k : ErrKind) (ph : ErrPhase) (st : Byte) : (a.err k ph st).value = a.value := by
  unfold Acc.err; split <;> rfl

@[simp] theorem check_value (phase : ErrPhase) (expected mask : Byte) (s : State) :
    (check phase expected mask s).acc.value = s.acc.value := by
  rcases check_cases phase expected mask s with ⟨-, hc⟩ | ⟨-, hc⟩ <;> simp [hc]

@[simp] theorem check_aborted (phase : ErrPhase) (expected mask : Byte) (s : State) :
    (check phase expected mask s).acc.aborted = s.acc.aborted := by
  rcases check_cases phase expected mask s with ⟨-, hc⟩ | ⟨-, hc⟩ <;> simp [hc]

/-- Settles O43: the step is `exec_check`; what it records is the check's, where it goes and its last write of ACC the return's. -/
theorem compositeAbortsOnlyInHardenedMode : Obligations.CompositeAbortsOnlyInHardenedMode := by
  unfold Obligations.CompositeAbortsOnlyInHardenedMode
  intro i s q c phase expected mask hi hq hf hc
  have hs := hasStep_of_posFits hf
  obtain ⟨p', hp'⟩ := exists_afterCheck hi hs hc
  let ok := c && checkOk expected mask s
  have habort : aborts i (check phase expected mask s) ok = true ↔
      s.cfg.mode = .hardened ∧ (c = false ∨ s.sr.status &&& mask ≠ expected) := by
    rw [ne_eq, ← checkOk_iff]
    simp [aborts, hi, ok, State.hardened]
  refine ⟨_, _, exec_check hs hq hc, afterPrimitive_seq .., fun hfail => ?fails, fun hkept => ?keeps, fun hpass => ?passes,
    by simp, by simp, by simp, by simp, by simp, fun hm hbad => ?hardened, fun hgoes => ?goesOn⟩
  case fails =>
    rw [check_of_fail phase hfail]
    refine ⟨by simp, by simp, fun hnone => ?_⟩
    simp [Acc.err, hnone, classify]
  case keeps =>
    by_cases hpass : s.sr.status &&& mask = expected
    · simp [check_of_pass phase hpass]
    · have herr := hkept.resolve_right hpass
      simp [check_of_fail phase hpass, Acc.err, herr]
  case passes => simp [check_of_pass phase hpass]
  case hardened =>
    have ha := habort.mpr ⟨hm, hbad⟩
    simp [afterPrimitive_aborted, afterPrimitive_value, ok, ha]
  case goesOn =>
    have ha : aborts i (check phase expected mask s) ok = false := by
      rw [← Bool.not_eq_true, habort]
      rintro ⟨hm, hbad⟩
      rcases hgoes with hfaithful | ⟨hc, hpass⟩
      · rw [hm] at hfaithful; cases hfaithful
      · exact hbad.elim (fun hc' => by rw [hc] at hc'; cases hc') (fun hfail => hfail hpass)
    simp [afterPrimitive_aborted, afterPrimitive_value, ok, ha, hp']

end Sys2Proof.Machine
end

section
/-! A HARDENED command finishes (R81, R90, R94, R104, R106): every sequencer step lowers a rank of the position, the stage of the command and
within it the reads and steps left to the procedure, and no bus move changes the position. -/

namespace Sys2Proof.Machine

/-! ### The rank of a position -/

/-- Steps left in SendStart when its poll has `b` reads. -/
def startLeft (b : Nat) : StartPt → Nat
  | .check _ => 1
  | .timeout => 2
  | .poll k => 3 + (b - k)
  | .delay => 4 + b
  | .issue => 5 + b

/-- Steps left in SendByte when its wait and its poll have `b` reads. -/
def sendLeft (b : Nat) : SendPt → Nat
  | .check _ => 1
  | .timeout => 2
  | .poll k => 3 + (b - k)
  | .issue => 4 + b
  | .load => 5 + b
  | .waitTimeout => 1
  | .wait k => 6 + b + (b - k)
  | .ready => 7 + 2 * b

/-- Steps left in ReceiveByte when its poll has `b` reads. -/
def receiveLeft (b : Nat) : RecvPt → Nat
  | .check _ => 1
  | .timeout => 2
  | .poll k => 3 + (b - k)
  | .issue => 4 + b

/-- Steps left in SendStop when its spin has `b` reads. -/
def stopLeft (b : Nat) : StopPt → Nat
  | .timeout => 1
  | .spin k => 2 + (b - k)
  | .issue => 3 + b

/-- Steps left in ToggleEnable. -/
def toggleLeft : TogglePt → Nat
  | .on => 1
  | .off => 2

/-- Steps left in the procedure a position stands in. -/
def stepsLeft (c : Params) : Pos → Nat
  | .start p => startLeft c.pollBudget p
  | .repeatedStart p => startLeft c.pollBudget p
  | .stop p => stopLeft c.stopBudget p
  | .byte p => sendLeft c.pollBudget p
  | .writeAddress p => sendLeft c.pollBudget p
  | .readAddress p => sendLeft c.pollBudget p
  | .subAddress p => sendLeft c.pollBudget p
  | .data _ p => sendLeft c.pollBudget p
  | .receive _ p => receiveLeft c.pollBudget p
  | .toggle p => toggleLeft p
  | _ => 0

/-- How far a position is from the finish of the longest command that has it; a burst has at most 256 bytes. -/
def stage : Pos → Nat
  | .finish => 1
  | .toggle _ => 2
  | .readSr => 2
  | .stop _ => 3
  | .enable => 2
  | .setBr => 3
  | .setPs => 4
  | .byte _ => 4
  | .readDr => 4
  | .storeBuf i => 4 + 2 * (256 - i)
  | .receive i _ => 5 + 2 * (256 - i)
  | .data i _ => 4 + 2 * (256 - i)
  | .loadBuf i => 5 + 2 * (256 - i)
  | .readAddress _ => 518
  | .repeatedStart _ => 519
  | .subAddress _ => 520
  | .writeAddress _ => 521
  | .start _ => 522

/-- More than the steps any procedure can have left. -/
def stepsBound (c : Params) : Nat := 8 + 2 * c.pollBudget + c.stopBudget

/-- The rank: first the stage, then the steps left in the procedure. -/
def rank (c : Params) (p : Pos) : Nat := stage p * stepsBound c + stepsLeft c p

theorem stepsLeft_lt (c : Params) (p : Pos) : stepsLeft c p < stepsBound c := by
  unfold stepsBound
  cases p with
  | start r | repeatedStart r => cases r <;> simp only [stepsLeft, startLeft] <;> omega
  | byte r | writeAddress r | readAddress r | subAddress r | data _ r => cases r <;> simp only [stepsLeft, sendLeft] <;> omega
  | receive _ r => cases r <;> simp only [stepsLeft, receiveLeft] <;> omega
  | stop r => cases r <;> simp only [stepsLeft, stopLeft] <;> omega
  | toggle r => cases r <;> simp only [stepsLeft, toggleLeft] <;> omega
  | _ => simp only [stepsLeft]; omega

/-- A step to an earlier stage lowers the rank, wherever it leads there. -/
theorem rank_lt_of_stage {c : Params} {p p' : Pos} (h : stage p' < stage p) : rank c p' < rank c p := by
  have hleft := stepsLeft_lt c p'
  calc rank c p' < (stage p' + 1) * stepsBound c := by rw [rank, Nat.succ_mul]; omega
    _ ≤ stage p * stepsBound c := Nat.mul_le_mul_right _ h
    _ ≤ rank c p := Nat.le_add_right _ _

/-- A step inside a procedure lowers it by the steps left. -/
theorem rank_lt_of_stepsLeft {c : Params} {p p' : Pos} (hs : stage p' = stage p) (h : stepsLeft c p' < stepsLeft c p) :
    rank c p' < rank c p := by
  rw [rank, rank, hs]; omega

/-! ### Steps inside a procedure -/

theorem startStep_left {phase : ErrPhase} {e : Byte} {p p' : StartPt} {s u : State} (h : startStep phase e p s = .stay u p') :
    startLeft s.cfg.pollBudget p' < startLeft s.cfg.pollBudget p := by
  cases p with
  | poll k =>
    rcases pollRead_cases s.cfg.pollBudget k s.cr.int with ⟨-, hr⟩ | ⟨-, hk, hr⟩ | ⟨-, -, hr⟩ <;>
      rw [startStep, hr] at h <;> cases h <;> simp only [startLeft] <;> omega
  | check c => cases h
  | issue | delay | timeout => cases h; simp only [startLeft]; omega

theorem sendStep_left {x : Byte} {phase : ErrPhase} {ph : Phase} {e : Option Byte} {p p' : SendPt} {s u : State}
    (hh : s.hardened = true) (h : sendStep x phase ph e p s = .stay u p') :
    sendLeft s.cfg.pollBudget p' < sendLeft s.cfg.pollBudget p := by
  cases p with
  | ready => rw [sendStep] at h; split at h <;> cases h <;> simp only [sendLeft] <;> omega
  | wait k =>
    rcases pollRead_cases s.cfg.pollBudget k s.cr.int with ⟨-, hr⟩ | ⟨-, hk, hr⟩ | ⟨-, -, hr⟩ <;> rw [sendStep, hr] at h
    · cases h; simp only [sendLeft]; omega
    · cases h; simp only [sendLeft]; omega
    · rw [hh] at h; cases h; simp only [sendLeft]; omega
  | poll k =>
    rcases pollRead_cases s.cfg.pollBudget k s.cr.int with ⟨-, hr⟩ | ⟨-, hk, hr⟩ | ⟨-, -, hr⟩ <;> rw [sendStep, hr] at h
    · cases e <;> cases h; simp only [sendLeft]; omega
    · cases h; simp only [sendLeft]; omega
    · cases h; simp only [sendLeft]; omega
  | timeout => cases e <;> cases h; simp only [sendLeft]; omega
  | check c => cases e <;> cases h
  | waitTimeout => cases h
  | load | issue => cases h; simp only [sendLeft]; omega

theorem receiveStep_left {ack : Bool} {p p' : RecvPt} {s u : State} (h : receiveStep ack p s = .stay u p') :
    receiveLeft s.cfg.pollBudget p' < receiveLeft s.cfg.pollBudget p := by
  cases p with
  | poll k =>
    rcases pollRead_cases s.cfg.pollBudget k s.cr.int with ⟨-, hr⟩ | ⟨-, hk, hr⟩ | ⟨-, -, hr⟩ <;>
      rw [receiveStep, hr] at h <;> cases h <;> simp only [receiveLeft] <;> omega
  | check c => cases h
  | issue | timeout => cases h; simp only [receiveLeft]; omega

theorem stopStep_left {p p' : StopPt} {s u : State} (hh : s.hardened = true) (h : stopStep p s = .stay u p') :
    stopLeft s.cfg.stopBudget p' < stopLeft s.cfg.stopBudget p := by
  rcases stopStep_cases p s with ⟨rfl, hc⟩ | ⟨rfl, hc⟩ | ⟨k, rfl, -, hc⟩ | ⟨k, rfl, -, hf, hc⟩ | ⟨k, rfl, -, -, hk, hc⟩ |
    ⟨k, rfl, -, -, -, hc⟩ <;> rw [hc] at h
  · cases h; simp only [stopLeft]; omega
  · cases h
  · cases h
  · rw [hh] at hf; cases hf
  · cases h; simp only [stopLeft]; omega
  · cases h; simp only [stopLeft]; omega

/-! ### Steps of a command -/

/-- The step has gone on to a position of lower rank. -/
def RankFalls (c : Params) (p : Pos) (t : State) : Prop := ∃ q', t.seq = some q' ∧ rank c q'.pos < rank c p

theorem rankFalls_goto {c : Params} {p p' : Pos} (q : Seq) (u : State) (h : stage p' < stage p) : RankFalls c p (goto q p' u) :=
  ⟨_, rfl, rank_lt_of_stage h⟩

/-- A call of a procedure, whose own steps lower the steps left and whose return leads to an earlier stage. -/
theorem call_rankFalls {P : Type} {c : Params} {q : Seq} {wrap : P → Pos} {after : State → Bool → State} {r : Ret P} {p : P} {t : State}
    (h : call q wrap after r = .next t) (hstage : ∀ p', stage (wrap p') = stage (wrap p))
    (hstay : ∀ u p', r = .stay u p' → stepsLeft c (wrap p') < stepsLeft c (wrap p))
    (hret : ∀ u ok, RankFalls c (wrap p) (after u ok)) : RankFalls c (wrap p) t := by
  rcases call_next h with ⟨u, p', hr, rfl⟩ | ⟨u, ok, -, rfl⟩
  · exact ⟨_, rfl, rank_lt_of_stepsLeft (hstage p') (hstay u p' hr)⟩
  · exact hret u ok

/-- The position after a post-check is of an earlier stage. -/
theorem stage_afterCheck {i : Instr} {p p' : Pos} (h : afterCheck i p = some p') : stage p' < stage p := by
  cases i with
  | readRegister a r =>
    cases p with
    | start | writeAddress | subAddress | repeatedStart | readAddress | receive => cases h; simp only [stage]; omega
    | _ => cases h
  | readRegisters a r n =>
    cases p with
    | start | writeAddress | subAddress | repeatedStart | receive => cases h; simp only [stage]; omega
    | readAddress => cases h; split <;> simp only [stage] <;> omega
    | _ => cases h
  | writeRegister a r b =>
    cases p with
    | start | writeAddress | subAddress | data => cases h; simp only [stage]; omega
    | _ => cases h
  | writeRegisters a r n =>
    have hn := n.isLt
    cases p with
    | start | writeAddress => cases h; simp only [stage]; omega
    | subAddress | data => cases h; split <;> simp only [stage] <;> omega
    | _ => cases h
  | _ => cases h

/-- A primitive stands at a stage before the stop, so its return leads to an earlier stage, aborted or not. -/
theorem afterPrimitive_rankFalls {q : Seq} (c : Params) (i : Instr) (hp : 3 < stage q.pos) (u : State) (ok : Bool) :
    RankFalls c q.pos (afterPrimitive i q u ok) := by
  refine ⟨_, afterPrimitive_seq i q u ok, rank_lt_of_stage ?_⟩
  split
  · exact hp
  · cases ha : afterCheck i q.pos with
    | none => exact Nat.lt_of_succ_lt (Nat.lt_of_succ_lt hp)
    | some p' => exact stage_afterCheck ha

section
variable {i : Instr} {s t : State} {q : Seq}

theorem StartSite.rankFalls {wrap : StartPt → Pos} {phase : ErrPhase} {ok : Params → Byte} {p : StartPt}
    (hsite : StartSite wrap phase ok) (hs : hasStep i (wrap p) = true) (hq : s.seq = some q) (hp : q.pos = wrap p)
    (h : exec i s = .next t) : RankFalls s.cfg q.pos t := by
  rw [hsite.exec_eq hs hq hp] at h
  have hret := afterPrimitive_rankFalls (q := q) s.cfg i
  rw [hp] at hret ⊢
  cases hsite with
  | start | repeatedStart =>
    exact call_rankFalls h (fun _ => rfl) (fun _ _ hr => startStep_left hr) (hret (by simp [stage]))

theorem SendSite.rankFalls {wrap : SendPt → Pos} {phase : ErrPhase} {ph : Phase} {e : Params → Option Byte} {p : SendPt}
    (hsite : SendSite wrap phase ph e) (hh : s.hardened = true) (hs : hasStep i (wrap p) = true) (hq : s.seq = some q)
    (hp : q.pos = wrap p) (h : exec i s = .next t) : RankFalls s.cfg q.pos t := by
  obtain ⟨x, hx⟩ := hsite.exec_eq hs hq hp
  rw [hx] at h
  have hret := afterPrimitive_rankFalls (q := q) s.cfg i
  rw [hp] at hret ⊢
  cases hsite with
  | byte | writeAddress | readAddress | subAddress | data =>
    exact call_rankFalls h (fun _ => rfl) (fun _ _ hr => sendStep_left hh hr) (hret (by simp only [stage]; omega))

theorem receive_rankFalls {k : Nat} {p : RecvPt} (hs : hasStep i (.receive k p) = true) (hq : s.seq = some q)
    (hp : q.pos = .receive k p) (h : exec i s = .next t) : RankFalls s.cfg q.pos t := by
  obtain ⟨ack, hx⟩ := receive_exec_eq hs hq hp
  rw [hx] at h
  have hret := afterPrimitive_rankFalls (q := q) s.cfg i
  rw [hp] at hret ⊢
  exact call_rankFalls h (fun _ => rfl) (fun _ _ hr => receiveStep_left hr) (hret (by simp only [stage]; omega))

theorem stops_of_hasStep {p : StopPt} (hs : hasStep i (.stop p) = true) : stops i := by
  cases i with
  | sendStop => exact .inl rfl
  | readRegister | readRegisters | writeRegister | writeRegisters => exact .inr rfl
  | _ => cases hs

theorem stop_rankFalls {p : StopPt} (hh : s.hardened = true) (hs : hasStep i (.stop p) = true) (hq : s.seq = some q)
    (hp : q.pos = .stop p) (h : exec i s = .next t) : RankFalls s.cfg q.pos t := by
  rw [exec_stop (stops_of_hasStep hs) hq hp] at h
  rw [hp]
  have hafter : stage (afterStop i) < stage (.stop p) := by cases i <;> simp [afterStop, stage]
  exact call_rankFalls h (fun _ => rfl) (fun _ _ hr => stopStep_left hh hr) (fun u _ => rankFalls_goto q u hafter)

theorem toggle_rankFalls {p : TogglePt} (hq : s.seq = some q) (hp : q.pos = .toggle p) (h : exec i s = .next t) :
    RankFalls s.cfg q.pos t := by
  rw [hp]
  rcases exec_toggle hq hp h with ⟨rfl, rfl⟩ | ⟨rfl, v, rfl⟩
  · exact ⟨_, rfl, rank_lt_of_stepsLeft rfl (Nat.lt_succ_self 1)⟩
  · exact rankFalls_goto q _ (by decide)

theorem stage_readNext (n : Byte) (k : Nat) : stage (readNext (count n) (k + 1)) < stage (.storeBuf k) := by
  have hn := n.isLt
  unfold readNext count
  split <;> simp only [stage] <;> omega

/-- A step that goes to a position of an earlier stage. -/
theorem rankFalls_of_exec {q' : Seq} {p p' : Pos} {u : State} (hp : q.pos = p) (hx : exec i s = .next (goto q' p' u))
    (h : exec i s = .next t) (hstage : stage p' < stage p) : RankFalls s.cfg q.pos t := by
  obtain rfl : goto q' p' u = t := by rw [hx] at h; injection h
  rw [hp]
  exact rankFalls_goto q' u hstage

/-- The steps of SET_BITRATE and INIT (R79, R80). -/
theorem bitrate_rankFalls (hi : (∃ khz, i = .setBitrate khz) ∨ i = .init) {p : Pos} (hq : s.seq = some q) (hp : q.pos = p)
    (hf : p ≠ .finish) (h : exec i s = .next t) : RankFalls s.cfg q.pos t := by
  have hs := hasStep_of_next hq h
  rw [hp] at hs
  rcases hi with ⟨khz, rfl⟩ | rfl
  · cases p with
    | setPs => exact rankFalls_of_exec hp (exec_setBitrate_setPs khz hq hp) h (by decide)
    | setBr => exact rankFalls_of_exec hp (exec_setBitrate_setBr khz hq hp) h (by decide)
    | finish => exact absurd rfl hf
    | _ => cases hs
  · cases p with
    | setPs => exact rankFalls_of_exec hp (exec_init_setPs hq hp) h (by decide)
    | setBr => exact rankFalls_of_exec hp (exec_init_setBr hq hp) h (by decide)
    | enable => exact rankFalls_of_exec hp (exec_init_enable hq hp) h (by decide)
    | finish => exact absurd rfl hf
    | _ => cases hs

theorem readDr_rankFalls (hq : s.seq = some q) (hp : q.pos = .readDr) (h : exec i s = .next t) : RankFalls s.cfg q.pos t := by
  have hs := hasStep_of_next hq h
  rw [hp] at hs
  cases i with
  | getReceivedByte => exact rankFalls_of_exec hp (exec_getReceivedByte_readDr hq hp) h (by decide)
  | readRegister a r => exact rankFalls_of_exec hp (exec_readRegister_readDr a r hq hp) h (by decide)
  | _ => cases hs

theorem readSr_rankFalls (hq : s.seq = some q) (hp : q.pos = .readSr) (h : exec i s = .next t) : RankFalls s.cfg q.pos t := by
  have hs := hasStep_of_next hq h
  rw [hp] at hs
  cases i with
  | getStatus => exact rankFalls_of_exec hp (exec_getStatus_readSr hq hp) h (by decide)
  | _ => cases hs

theorem storeBuf_rankFalls {k : Nat} (hq : s.seq = some q) (hp : q.pos = .storeBuf k) (h : exec i s = .next t) :
    RankFalls s.cfg q.pos t := by
  obtain ⟨a, r, n, rfl⟩ := readRegisters_of_hasStep_storeBuf (hp ▸ hasStep_of_next hq h)
  exact rankFalls_of_exec hp (exec_readRegisters_storeBuf a r n hq hp) h (stage_readNext n k)

theorem loadBuf_rankFalls {k : Nat} (hq : s.seq = some q) (hp : q.pos = .loadBuf k) (h : exec i s = .next t) :
    RankFalls s.cfg q.pos t := by
  have hs := hasStep_of_next hq h
  rw [hp] at hs
  cases i with
  | writeRegisters a r n =>
    cases hb : s.buf.read k with
    | some b => exact rankFalls_of_exec hp (exec_writeRegisters_loadBuf a r n hq hp hb) h (by simp only [stage]; omega)
    | none => simp [exec, execWriteRegisters, command_running hq, hp, hb] at h
  | _ => cases hs

theorem init_of_hasStep_enable (hs : hasStep i .enable = true) : i = .init := by
  cases i with
  | init => rfl
  | _ => cases hs

/-- Every step of a HARDENED command but its finish lowers the rank of the position. -/
theorem exec_rankFalls {p : Pos} (hh : s.hardened = true) (hq : s.seq = some q) (hp : q.pos = p) (hf : p ≠ .finish)
    (h : exec i s = .next t) : RankFalls s.cfg q.pos t := by
  have hs := hasStep_of_next hq h
  rw [hp] at hs
  cases p with
  | start p => exact StartSite.start.rankFalls hs hq hp h
  | repeatedStart p => exact StartSite.repeatedStart.rankFalls hs hq hp h
  | byte p => exact SendSite.byte.rankFalls hh hs hq hp h
  | writeAddress p => exact SendSite.writeAddress.rankFalls hh hs hq hp h
  | readAddress p => exact SendSite.readAddress.rankFalls hh hs hq hp h
  | subAddress p => exact SendSite.subAddress.rankFalls hh hs hq hp h
  | data k p => exact (SendSite.data k).rankFalls hh hs hq hp h
  | receive k p => exact receive_rankFalls hs hq hp h
  | stop p => exact stop_rankFalls hh hs hq hp h
  | toggle p => exact toggle_rankFalls hq hp h
  | setPs => exact bitrate_rankFalls (bitrate_of_hasStep (.inl rfl) hs) hq hp hf h
  | setBr => exact bitrate_rankFalls (bitrate_of_hasStep (.inr rfl) hs) hq hp hf h
  | enable => exact bitrate_rankFalls (.inr (init_of_hasStep_enable hs)) hq hp hf h
  | readDr => exact readDr_rankFalls hq hp h
  | readSr => exact readSr_rankFalls hq hp h
  | storeBuf k => exact storeBuf_rankFalls hq hp h
  | loadBuf k => exact loadBuf_rankFalls hq hp h
  | finish => exact absurd rfl hf

end

/-! ### Runs -/

/-- The rank of the running command's position, 0 when none runs: a bound on the sequencer steps to its finish. -/
def State.rank (s : State) : Nat :=
  match s.seq with
  | none => 0
  | some q => Machine.rank s.cfg q.pos

theorem State.rank_running {s : State} {q : Seq} (hq : s.seq = some q) : s.rank = Machine.rank s.cfg q.pos := by
  rw [State.rank, hq]

theorem State.rank_idle {s : State} (hq : s.seq = none) : s.rank = 0 := by
  rw [State.rank, hq]

theorem rank_pos (c : Params) (p : Pos) : 0 < rank c p := by
  have hstage : 0 < stage p := by cases p <;> simp only [stage] <;> omega
  have hbound : 0 < stepsBound c := by unfold stepsBound; omega
  exact Nat.add_pos_left (Nat.mul_pos hstage hbound) _

theorem busStep_rank (c : Code) (b : Byte) (s : State) : (busStep c b s).rank = s.rank := by
  simp [State.rank]

/-- A sequencer step of a running HARDENED command. -/
theorem exec_rank_lt {i : Instr} {s t : State} (hh : s.hardened = true) (hb : s.busy = true) (h : exec i s = .next t) :
    t.rank < s.rank := by
  obtain ⟨q, hq⟩ := Option.isSome_iff_exists.mp hb
  rw [State.rank_running hq]
  by_cases hf : q.pos = .finish
  · obtain rfl : finishOf i s = t := by simpa [exec_finish i hq hf] using h
    rw [State.rank_idle (finishOf_seq i s)]
    exact rank_pos _ _
  · obtain ⟨q', hq', hlt⟩ := exec_rankFalls hh hq rfl hf h
    rw [State.rank_running hq', exec_cfg h]
    exact hlt

/-- After as many sequencer steps as its rank a HARDENED command has finished, whatever bus moves stand between them. -/
theorem execMoves_finishes {i : Instr} {ms : List Move} (hms : ∀ m ∈ ms, m.internal = true) {s t : State} (hh : s.hardened = true)
    (hn : s.rank ≤ ms.countP (fun m => decide (m = .sequencer))) (h : execMoves i ms s = .next t) : t.busy = false := by
  induction ms generalizing s with
  | nil =>
    obtain rfl : s = t := by simpa [execMoves] using h
    cases hq : s.seq with
    | none => exact busy_eq_false_iff.mpr hq
    | some q =>
      rw [State.rank_running hq, List.countP_nil] at hn
      exact absurd hn (Nat.not_le.mpr (rank_pos _ _))
  | cons m ms ih =>
    obtain ⟨hm, hrest⟩ := List.forall_mem_cons.mp hms
    cases m with
    | sequencer =>
      rw [List.countP_cons_of_pos (by decide)] at hn
      cases hb : s.busy with
      | false =>
        rw [execMoves_idle hb] at h
        exact ih hrest hh (by rw [State.rank_idle (busy_eq_false_iff.mp hb)]; exact Nat.zero_le _) h
      | true =>
        cases hx : exec i s with
        | next u =>
          rw [execMoves_sequencer hb hx] at h
          have hlt := exec_rank_lt hh hb hx
          exact ih hrest (by rw [State.hardened, exec_cfg hx]; exact hh) (by omega) h
        | fault f => rw [execMoves_sequencer_fault hb hx] at h; cases h
        | refused r => rw [execMoves_sequencer_refused hb hx] at h; cases h
    | bus c b =>
      rw [List.countP_cons_of_neg (by simp)] at hn
      exact ih hrest (by simpa [State.hardened] using hh) (by rwa [busStep_rank]) h
    | host a => cases hm
    | reset => cases hm

/-- Settles O47: the rank of the position is such a number of steps. -/
theorem hardenedCommandsAlwaysFinish : Obligations.HardenedCommandsAlwaysFinish := by
  unfold Obligations.HardenedCommandsAlwaysFinish
  intro i s q hm hq hf
  exact ⟨s.rank, fun ms t hms hn h => execMoves_finishes hms (hardened_iff.mpr hm) hn h⟩

end Sys2Proof.Machine
end

section
/-! Exchanges with the bus (R83, R86 of 41_primitives.md; R103 of 42_transactions.md): a primitive on a bus that completes its action before
the next step, as one whole state from its issue to its post-check, and what such exchanges leave. -/

namespace Sys2Proof.Machine

/-! ### One exchange -/

/-- What a primitive with a post-check shows: the action and the byte it issues, the PHASE it sets, and the phase, the expected status and
the mask of its check (R36 of 10_state.md; R83, R86, R92 to R99). -/
structure Exchange where
  act : Action
  byte : Byte
  shown : Phase
  phase : ErrPhase
  expected : Params → Byte
  mask : Byte

/-- SendStart or SendRepeatedStart (R92, R93). -/
def Exchange.start (phase : ErrPhase) (ok : Params → Byte) : Exchange := ⟨.start, 0#8, .started, phase, ok, fullMask⟩

/-- SendByte of `b` with its post-check (R90, R96 to R98). -/
def Exchange.send (b : Byte) (phase : ErrPhase) (shown : Phase) (ok : Params → Byte) : Exchange :=
  ⟨.send, b, shown, phase, ok, fullMask⟩

/-- ReceiveByte (R99, R100). -/
def Exchange.receive (ack : Bool) : Exchange := ⟨receiveAction ack, 0#8, .data, .receive, (·.readDataOk), receiveMask⟩

/-- SendData (R98). -/
abbrev Exchange.data (b : Byte) : Exchange := .send b .data .data (·.writeDataOk)

/-- SendWriteAddress with its address byte (R96). -/
abbrev Exchange.writeAddress (w : Byte) : Exchange := .send w .address .addressed (·.writeAddressOk)

/-- SendReadAddress with its address byte (R97). -/
abbrev Exchange.readAddress (x : Byte) : Exchange := .send x .address .addressed (·.readAddressOk)

/-- The state just after the issue; a send has loaded DR with its byte. -/
def Exchange.issued (x : Exchange) (s : State) : State :=
  issuedIn x.shown x.act x.byte ⟨false, decide (x.act = .recvAck), decide (x.act = .start), false, true⟩
    { s with dr := if x.act = .send then x.byte else s.dr }

/-- The state when the bus has answered (R42 of 10_state.md). -/
def Exchange.answered (x : Exchange) (a : Answer) (s : State) : State := completeAction x.act a.1 a.2 (x.issued s)

/-- The state after the post-check (R86). -/
def Exchange.checked (x : Exchange) (a : Answer) (s : State) : State := check x.phase (x.expected s.cfg) x.mask (x.answered a s)

/-- The answer passes the post-check. -/
def Exchange.passes (x : Exchange) (a : Answer) (p : Params) : Prop := statusOfCode a.1 &&& x.mask = x.expected p

/-- The bus events of the exchange; only a receive brings a byte. -/
def Exchange.events (x : Exchange) (a : Answer) : List BusEvent :=
  actionEvents x.act x.byte a.1 (if x.act.isReceive then a.2 else 0#8)

theorem Exchange.start_passes {phase : ErrPhase} {ok : Params → Byte} {a : Answer} {p : Params} :
    (Exchange.start phase ok).passes a p ↔ a.isStatus (ok p) := by
  simp [passes, start, Answer.isStatus, statusOfCode_and_fullMask]

theorem Exchange.send_passes {b : Byte} {phase : ErrPhase} {shown : Phase} {ok : Params → Byte} {a : Answer} {p : Params} :
    (Exchange.send b phase shown ok).passes a p ↔ a.isStatus (ok p) := by
  simp [passes, send, Answer.isStatus, statusOfCode_and_fullMask]

section
variable (x : Exchange) (a : Answer) (s : State)

@[simp] theorem Exchange.checked_cfg : (x.checked a s).cfg = s.cfg := check_cfg ..
@[simp] theorem Exchange.checked_buf : (x.checked a s).buf = s.buf := check_buf ..
@[simp] theorem Exchange.checked_int : (x.checked a s).cr.int = true := by rw [checked, check_cr]; rfl
@[simp] theorem Exchange.checked_pend : (x.checked a s).pend = none := check_pend ..
@[simp] theorem Exchange.checked_value : (x.checked a s).acc.value = s.acc.value := check_value ..
theorem Exchange.checked_dr : (x.checked a s).dr = if x.act.isReceive then a.2 else if x.act = .send then x.byte else s.dr :=
  check_dr ..

theorem Exchange.answered_status : (x.answered a s).sr.status = statusOfCode a.1 := status_eq_code _

theorem Exchange.checkOk_answered : checkOk (x.expected s.cfg) x.mask (x.answered a s) = true ↔ x.passes a s.cfg := by
  rw [checkOk_iff, answered_status]; rfl

end

/-! ### What exchanges leave -/

/-- From `s` to `t` BUSEV grows by `events`, after the abandonment of what was pending in `s`, and nothing is pending in `t`; the
parameters, SR.PS, BR, CMD and ABORTED stay, and where every post-check passed (`ok`) so do LOG and all of ACC but VALUE. -/
structure Leaves (events : List BusEvent) (ok : Prop) (s t : State) : Prop where
  busev : t.busev = s.busev ++ (abandonEvents s.pend ++ events)
  pend : t.pend = none
  cfg : t.cfg = s.cfg
  ps : t.sr.ps = s.sr.ps
  br : t.br = s.br
  cmd : t.cmd = s.cmd
  aborted : t.acc.aborted = s.acc.aborted
  log : ok → t.log = s.log
  acc : ok → t.acc = { s.acc with value := t.acc.value }

section
variable {e1 e2 : List BusEvent} {ok1 ok2 : Prop} {s t u : State}

theorem Leaves.refl (h : s.pend = none) : Leaves [] True s s where
  busev := by simp [h, abandonEvents]
  pend := h
  cfg := rfl
  ps := rfl
  br := rfl
  cmd := rfl
  aborted := rfl
  log _ := rfl
  acc _ := rfl

theorem Leaves.trans (h1 : Leaves e1 ok1 s t) (h2 : Leaves e2 ok2 t u) : Leaves (e1 ++ e2) (ok1 ∧ ok2) s u where
  busev := by rw [h2.busev, h1.busev, h1.pend]; simp [abandonEvents]
  pend := h2.pend
  cfg := h2.cfg.trans h1.cfg
  ps := h2.ps.trans h1.ps
  br := h2.br.trans h1.br
  cmd := h2.cmd.trans h1.cmd
  aborted := h2.aborted.trans h1.aborted
  log h := (h2.log h.2).trans (h1.log h.1)
  acc h := by rw [h2.acc h.2, h1.acc h.1]

/-- The events and the condition written another way. -/
theorem Leaves.congr (h : Leaves e1 ok1 s t) (he : e1 = e2) (hok : ok2 → ok1) : Leaves e2 ok2 s t :=
  { h with busev := he ▸ h.busev, log := fun hk => h.log (hok hk), acc := fun hk => h.acc (hok hk) }

/-- A write of VALUE. -/
theorem Leaves.after_setValue (h : Leaves e1 ok1 s t) (v : Byte) : Leaves e1 ok1 s (setValue v t) :=
  { h with acc := fun hk => by rw [setValue_acc, h.acc hk] }

end

theorem Exchange.checked_leaves (x : Exchange) (a : Answer) (s : State) :
    Leaves (x.events a) (x.passes a s.cfg) s (x.checked a s) where
  busev := by rw [checked, check_busev]; simp [answered, issued, issuedIn, completeAction, events, actionEvents]
  pend := x.checked_pend a s
  cfg := x.checked_cfg a s
  ps := by rw [checked, check_sr]; rfl
  br := check_br ..
  cmd := check_cmd ..
  aborted := check_aborted ..
  log h := by rw [checked, check_of_pass x.phase (checkOk_iff.mp ((x.checkOk_answered a s).mpr h))]; rfl
  acc h := by rw [checked, check_of_pass x.phase (checkOk_iff.mp ((x.checkOk_answered a s).mpr h))]; rfl

end Sys2Proof.Machine
end

section
/-! Runs of the primitives inside a composite on a bus that completes each action before the next step (R90, R92 to R99 of 41_primitives.md;
R103 of 42_transactions.md). -/

namespace Sys2Proof.Machine

/-- The composite goes on after a post-check that passed or is ignored (R103). -/
def goOn (i : Instr) (q : Seq) (s : State) : State :=
  goto q ((afterCheck i q.pos).getD .finish) (setValue (valueAfterCheck i q.pos s.acc.value) s)

/-- After a check that leaves VALUE. -/
theorem goOn_eq {i : Instr} (q : Seq) {p p' : Pos} {s : State} (hp : afterCheck i p = some p')
    (hv : valueAfterCheck i p s.acc.value = s.acc.value) : goOn i { q with pos := p } s = goto q p' s := by
  rw [goOn, hp, hv]; rfl

/-- In FAITHFUL mode, and where the primitive returned true, there is no abort. -/
theorem afterPrimitive_eq_goOn {i : Instr} {q : Seq} {s : State} {ok : Bool} (h : s.cfg.mode = .faithful ∨ ok = true) :
    afterPrimitive i q s ok = goOn i q s := by
  refine if_neg ?_
  rcases h with h | h
  · simp [aborts, State.hardened, h]
  · simp [aborts, h]

/-- The byte a SendByte of the composite loads into DR; `held` is the byte WRITE_REGISTERS has read from BUF (R109 to R112). -/
def loadedByte (i : Instr) (held : Byte) (p : Pos) : Byte :=
  match i, p with
  | .readRegister a _, .writeAddress _ => addressByte a false
  | .readRegister a _, .readAddress _ => addressByte a true
  | .readRegister _ r, _ => r
  | .readRegisters a _ _, .writeAddress _ => addressByte a false
  | .readRegisters a _ _, .readAddress _ => addressByte a true
  | .readRegisters _ r _, _ => r
  | .writeRegister a _ _, .writeAddress _ => addressByte a false
  | .writeRegister _ r _, .subAddress _ => r
  | .writeRegister _ _ b, _ => b
  | .writeRegisters a _ _, .writeAddress _ => addressByte a false
  | .writeRegisters _ r _, .subAddress _ => r
  | _, _ => held

/-- The load of a SendByte in a composite (R90). -/
theorem SendSite.exec_load {wrap : SendPt → Pos} {phase : ErrPhase} {ph : Phase} {e : Params → Option Byte}
    (h : SendSite wrap phase ph e) {i : Instr} (hi : isComposite i = true) (hs : hasStep i (wrap .load) = true) (q : Seq) (s : State) :
    exec i (goto q (wrap .load) s) = .next (goto q (wrap .issue) { s with dr := loadedByte i q.held (wrap .load) }) := by
  cases i with
  | readRegister | readRegisters =>
    cases h with
    | writeAddress | readAddress | subAddress => rfl
    | byte | data => cases hs
  | writeRegister | writeRegisters =>
    cases h with
    | writeAddress | subAddress | data => rfl
    | byte | readAddress => cases hs
  | _ => cases hi

/-- The post-check of a SendByte that makes one (R96 to R98). -/
theorem SendSite.checkSite_check {wrap : SendPt → Pos} {phase : ErrPhase} {ph : Phase} {e : Params → Option Byte}
    (h : SendSite wrap phase ph e) {p : Params} {v : Byte} (he : e p = some v) (c : Bool) :
    checkSite p (wrap (.check c)) = some (c, phase, v, fullMask) := by
  cases h <;> cases he <;> rfl

section
variable {i : Instr}

/-- The last read of the completion poll and the post-check. -/
theorem PollsAt.execMoves_checked {pos : Nat → Pos} {timeout done : Pos} (h : PollsAt i pos timeout done) {x : Exchange} {a : Answer}
    {s : State} (q : Seq) (hs : hasStep i done = true) (hc : checkSite s.cfg done = some (true, x.phase, x.expected s.cfg, x.mask))
    (hgo : s.cfg.mode = .faithful ∨ x.passes a s.cfg) :
    execMoves i [.sequencer, .sequencer] (goto q (pos 0) (x.answered a s)) = .next (goOn i { q with pos := done } (x.checked a s)) := by
  have hhit := h.hit (s := goto q (pos 0) (x.answered a s)) (q := { q with pos := pos 0 }) rfl rfl rfl
  have hcheck := exec_check (s := goto q done (x.answered a s)) (q := { q with pos := done }) hs rfl hc
  have hret : (check x.phase (x.expected s.cfg) x.mask (goto q done (x.answered a s))).cfg.mode = .faithful ∨
      (true && checkOk (x.expected s.cfg) x.mask (goto q done (x.answered a s))) = true := by
    rw [check_cfg]
    exact hgo.imp_right (x.checkOk_answered a s).mpr
  rw [afterPrimitive_eq_goOn hret, check_goto] at hcheck
  exact (execMoves_sequencer rfl hhit).trans (execMoves_sequencer rfl hcheck)

/-- The bus answers at a position that waits for it. -/
theorem Exchange.busStep_issued (x : Exchange) (hx : x.act ≠ .stop) (a : Answer) (q : Seq) (p : Pos) (s : State) :
    busStep a.1 a.2 (goto q p (x.issued s)) = goto q p (x.answered a s) :=
  busStep_action (p := ⟨x.act, x.byte⟩) rfl rfl hx

/-- SendStart or SendRepeatedStart (R92, R93). -/
theorem StartSite.execMoves_start {wrap : StartPt → Pos} {phase : ErrPhase} {ok : Params → Byte} (h : StartSite wrap phase ok)
    (hs : ∀ p, hasStep i (wrap p) = true) {a : Answer} {s : State} (q : Seq) (hgo : s.cfg.mode = .faithful ∨ a.isStatus (ok s.cfg)) :
    execMoves i (startMoves a.1 a.2) (goto q (wrap .issue) s) =
      .next (goOn i { q with pos := wrap (.check true) } ((Exchange.start phase ok).checked a s)) := by
  let x := Exchange.start phase ok
  have hissue : exec i (goto q (wrap .issue) s) = .next (goto q (wrap .delay) (x.issued s)) := by
    rw [h.exec_eq (q := { q with pos := wrap .issue }) (hs .issue) rfl rfl, startStep_issue]; rfl
  have hdelay : exec i (goto q (wrap .delay) (x.answered a s)) = .next (goto q (wrap (.poll 0)) (x.answered a s)) := by
    rw [h.exec_eq (q := { q with pos := wrap .delay }) (hs .delay) rfl rfl]; rfl
  have hsite : checkSite s.cfg (wrap (.check true)) = some (true, x.phase, x.expected s.cfg, x.mask) := by cases h <;> rfl
  rw [startMoves, execMoves_sequencer rfl hissue, execMoves_bus, x.busStep_issued (by simp [x, Exchange.start]),
    execMoves_sequencer rfl hdelay]
  exact (h.pollsAt (hs .issue)).execMoves_checked q (hs _) hsite (hgo.imp_right Exchange.start_passes.mpr)

/-- SendByte with its post-check, where INT = 1 (R90, R96 to R98). -/
theorem SendSite.execMoves_send {wrap : SendPt → Pos} {phase : ErrPhase} {ph : Phase} {ok : Params → Byte}
    (h : SendSite wrap phase ph fun p => some (ok p)) (hi : isComposite i = true) (hs : ∀ p, hasStep i (wrap p) = true) {a : Answer}
    {s : State} (q : Seq) {b : Byte} (hb : loadedByte i q.held (wrap .load) = b) (hint : s.cr.int = true)
    (hgo : s.cfg.mode = .faithful ∨ a.isStatus (ok s.cfg)) :
    execMoves i (sendMoves a.1 a.2) (goto q (wrap .ready) s) =
      .next (goOn i { q with pos := wrap (.check true) } ((Exchange.send b phase ph ok).checked a s)) := by
  let x := Exchange.send b phase ph ok
  have hready := h.exec_goto (p := .ready) (p' := .load) (hs .ready) (s := s) q fun _ => sendStep_ready _ _ _ _ hint
  have hload := h.exec_load hi (hs .load) q s
  rw [hb] at hload
  have hissue : exec i (goto q (wrap .issue) { s with dr := b }) = .next (goto q (wrap (.poll 0)) (x.issued s)) :=
    h.exec_stay (q := { q with pos := wrap .issue }) (u := goto q (wrap .issue) (x.issued s)) (hs .issue) rfl rfl
      fun _ => sendStep_issuedIn ..
  rw [sendMoves, execMoves_sequencer rfl hready, execMoves_sequencer rfl hload, execMoves_sequencer rfl hissue, execMoves_bus,
    x.busStep_issued (by simp [x, Exchange.send])]
  exact (h.pollsAt_checked (hs .ready)).execMoves_checked q (hs _) (h.checkSite_check rfl true) (hgo.imp_right Exchange.send_passes.mpr)

/-- The acknowledge choice of a composite read's receive (R109, R110). -/
def receiveAck : Instr → Nat → Bool
  | .readRegisters _ _ n, k => burstAck (count n) k
  | _, _ => false

/-- A step inside a procedure that a command calls. -/
theorem Calls.exec_goto {P : Type} {wrap : P → Pos} {after : Seq → State → Bool → State} {f : P → State → Ret P}
    (hc : Calls i wrap after f) (q : Seq) {s u : State} {p p' : P} (hf : f p (goto q (wrap p) s) = .stay (goto q (wrap p) u) p') :
    exec i (goto q (wrap p) s) = .next (goto q (wrap p') u) :=
  hc.exec_stay (q := { q with pos := wrap p }) (u := goto q (wrap p) u) rfl rfl hf

theorem readRegister_calls_receive (a : Addr7) (r : Byte) (k : Nat) : Calls (.readRegister a r) (.receive k)
    (doAfter fun q => goto q .readDr) (receiveStep false) :=
  fun s q p hq hp => by simp only [exec, execReadRegister, command_running hq, hp]; rfl

theorem readRegisters_calls_receive (a : Addr7) (r n : Byte) (k : Nat) : Calls (.readRegisters a r n) (.receive k)
    (doAfter fun q => goto q (.storeBuf k)) (receiveStep (burstAck (count n) k)) :=
  fun s q p hq hp => by simp only [exec, execReadRegisters, command_running hq, hp]; rfl

/-- ReceiveByte in a composite read (R99, R100). -/
theorem execMoves_receive {k : Nat} (hi : isComposite i = true) (hs : ∀ p, hasStep i (.receive k p) = true) {a : Answer} {s : State}
    (q : Seq) (hgo : s.cfg.mode = .faithful ∨ a.isReceiveOk s.cfg) :
    execMoves i (receiveMoves a.1 a.2) (goto q (.receive k .issue) s) =
      .next (goOn i { q with pos := .receive k (.check true) } ((Exchange.receive (receiveAck i k)).checked a s)) := by
  let x := Exchange.receive (receiveAck i k)
  have hact : x.act = if receiveAck i k then .recvAck else .recvNack := rfl
  have hissued (ack : Bool) : receiveStep ack .issue (goto q (.receive k .issue) s) =
      .stay (goto q (.receive k .issue) ((Exchange.receive ack).issued s)) (.poll 0) := by
    rw [receiveStep_issue]; cases ack <;> rfl
  have hissue : exec i (goto q (.receive k .issue) s) = .next (goto q (.receive k (.poll 0)) (x.issued s)) := by
    cases i with
    | readRegister a r => exact (readRegister_calls_receive a r k).exec_goto q (hissued false)
    | readRegisters a r n => exact (readRegisters_calls_receive a r n k).exec_goto q (hissued (burstAck (count n) k))
    | writeRegister | writeRegisters => cases hs .issue
    | _ => cases hi
  rw [receiveMoves, execMoves_sequencer rfl hissue, execMoves_bus, x.busStep_issued (by rw [hact]; split <;> simp)]
  exact (receive_pollsAt (hs .issue)).execMoves_checked q (hs _) rfl hgo

/-! ### The stop and the toggle -/

/-- The state after a stop that the bus completes at once (R94). -/
def stopped (s : State) : State := { s with
  phase := .idle
  cr := ⟨false, false, false, false, true⟩
  sr := { s.sr with code := codeOfStatus s.cfg.noInfo }
  pend := none
  busev := s.busev ++ (abandonEvents s.pend ++ stopEvents s.cfg) }

theorem execMoves_stop (hi : stops i) (c : Code) (b : Byte) (q : Seq) (s : State) :
    execMoves i (stopMoves c b) (goto q (.stop .issue) s) = .next (goto q (afterStop i) (stopped s)) := by
  let u := issuedIn .stopped .stop 0#8 ⟨false, false, false, true, true⟩ s
  have hissue : exec i (goto q (.stop .issue) s) = .next (goto q (.stop (.spin 0)) u) :=
    exec_stop_stay (q := { q with pos := .stop .issue }) (u := goto q (.stop .issue) u) hi rfl rfl (stopStep_issue _)
  have hbus : busStep c b (goto q (.stop (.spin 0)) u) = goto q (.stop (.spin 0)) (completeStop u) :=
    busStep_stop (p := ⟨.stop, 0#8⟩) rfl rfl rfl
  have hspin : exec i (goto q (.stop (.spin 0)) (completeStop u)) = .next (goto q (afterStop i) { completeStop u with phase := .idle }) :=
    exec_stop_ret (q := { q with pos := .stop (.spin 0) }) (u := goto q (.stop (.spin 0)) { completeStop u with phase := .idle }) hi rfl rfl
      (stopStep_spin_done 0 rfl)
  have hstopped : { completeStop u with phase := .idle } = stopped s := by
    simp [u, stopped, completeStop, issuedIn, stopEvents]
  rw [stopMoves, execMoves_sequencer rfl hissue, execMoves_bus, hbus, execMoves_sequencer rfl hspin, hstopped]
  rfl

theorem stopped_leaves (s : State) : Leaves (stopEvents s.cfg) True s (stopped s) :=
  ⟨rfl, rfl, rfl, rfl, rfl, rfl, rfl, fun _ => rfl, fun _ => rfl⟩

/-- The state after the two writes of the toggle (R26 of 10_state.md; R91). -/
def toggled (s : State) : State := { s with
  phase := .idle
  cr := ⟨false, false, false, false, true⟩
  sr := { s.sr with code := codeOfStatus s.cfg.noInfo }
  pend := none
  busev := s.busev ++ [.disabled] }

theorem toggled_leaves {s : State} (h : s.pend = none) : Leaves [.disabled] True s (toggled s) :=
  ⟨by rw [h]; rfl, rfl, rfl, rfl, rfl, rfl, rfl, fun _ => rfl, fun _ => rfl⟩

end

end Sys2Proof.Machine
end

section
/-! The openings of the composites (R109 to R112 of 42_transactions.md): start, write address, sub-address, and for a read repeated start
and read address. -/

namespace Sys2Proof.Machine

/-- The state after the opening, for address byte `w` and sub-address `r`. -/
def opened (w r : Byte) (a1 a2 a3 : Answer) (s : State) : State :=
  (Exchange.data r).checked a3 ((Exchange.writeAddress w).checked a2
    ((Exchange.start .start (·.startOk)).checked a1 s))

/-- The state after the opening of a read, for the address bytes `w` and `x`. -/
def readOpened (w r x : Byte) (a1 a2 a3 a4 a5 : Answer) (s : State) : State :=
  (Exchange.readAddress x).checked a5 ((Exchange.start .repeatedStart (·.repeatedStartOk)).checked a4
    (opened w r a1 a2 a3 s))

@[simp] theorem opened_buf (w r : Byte) (a1 a2 a3 : Answer) (s : State) : (opened w r a1 a2 a3 s).buf = s.buf := by simp [opened]
@[simp] theorem opened_int (w r : Byte) (a1 a2 a3 : Answer) (s : State) : (opened w r a1 a2 a3 s).cr.int = true := by simp [opened]
@[simp] theorem opened_value (w r : Byte) (a1 a2 a3 : Answer) (s : State) : (opened w r a1 a2 a3 s).acc.value = s.acc.value := by
  simp [opened]
@[simp] theorem readOpened_buf (w r x : Byte) (a1 a2 a3 a4 a5 : Answer) (s : State) :
    (readOpened w r x a1 a2 a3 a4 a5 s).buf = s.buf := by simp [readOpened]
@[simp] theorem readOpened_value (w r x : Byte) (a1 a2 a3 a4 a5 : Answer) (s : State) :
    (readOpened w r x a1 a2 a3 a4 a5 s).acc.value = s.acc.value := by simp [readOpened]

theorem opened_leaves (w r : Byte) (a1 a2 a3 : Answer) (s : State) :
    Leaves (openingEvents w r a1 a2 a3) (openingOk s.cfg a1 a2 a3) s (opened w r a1 a2 a3 s) := by
  refine ((Exchange.checked_leaves _ a1 s).trans ((Exchange.checked_leaves _ a2 _).trans (Exchange.checked_leaves _ a3 _))).congr rfl ?_
  simp only [Exchange.checked_cfg, Exchange.start_passes, Exchange.send_passes]
  exact id

theorem readOpened_leaves (w r x : Byte) (a1 a2 a3 a4 a5 : Answer) (s : State) :
    Leaves (readOpeningEvents w r x a1 a2 a3 a4 a5) (readOpeningOk s.cfg a1 a2 a3 a4 a5) s (readOpened w r x a1 a2 a3 a4 a5 s) := by
  have hopened := opened_leaves w r a1 a2 a3 s
  refine (hopened.trans ((Exchange.checked_leaves _ a4 _).trans (Exchange.checked_leaves _ a5 _))).congr rfl ?_
  simp only [Exchange.checked_cfg, Exchange.start_passes, Exchange.send_passes, hopened.cfg]
  exact id

theorem hasStep_of_posOpening {i : Instr} {p : Pos} (hi : isComposite i = true) (hp : posOpening p = true) : hasStep i p = true := by
  cases i with
  | readRegister | readRegisters | writeRegister | writeRegisters => cases p with
    | start | writeAddress | subAddress | stop | finish => rfl
    | _ => cases hp
  | _ => cases hi

/-- A composite read. -/
def isRead : Instr → Bool
  | .readRegister _ _ => true
  | .readRegisters _ _ _ => true
  | _ => false

theorem hasStep_of_posReading {i : Instr} {p : Pos} (hi : isRead i = true) (hp : posReading p = true) : hasStep i p = true := by
  cases i with
  | readRegister | readRegisters =>
    cases p with
    | start | writeAddress | subAddress | stop | finish | repeatedStart | readAddress | toggle => rfl
    | _ => cases hp
  | _ => cases hi

theorem isComposite_of_isRead {i : Instr} (hi : isRead i = true) : isComposite i = true := by
  cases i with
  | readRegister | readRegisters => rfl
  | _ => cases hi

/-- Where the opening goes on. -/
theorem goOn_opening {i : Instr} (hi : isComposite i = true) (q : Seq) (s : State) :
    goOn i { q with pos := .start (.check true) } s = goto q (.writeAddress .ready) s ∧
    goOn i { q with pos := .writeAddress (.check true) } s = goto q (.subAddress .ready) s := by
  cases i with
  | readRegister | readRegisters | writeRegister | writeRegisters => exact ⟨rfl, rfl⟩
  | _ => cases hi

/-- Where the opening of a read goes on. -/
theorem goOn_readOpening {i : Instr} (hi : isRead i = true) (q : Seq) (s : State) :
    goOn i { q with pos := .subAddress (.check true) } s = goto q (.repeatedStart .issue) s ∧
    goOn i { q with pos := .repeatedStart (.check true) } s = goto q (.readAddress .ready) s := by
  cases i with
  | readRegister | readRegisters => exact ⟨rfl, rfl⟩
  | _ => cases hi

section
variable {i : Instr} {s : State} {w r x : Byte} {a1 a2 a3 a4 a5 : Answer}

/-- The opening of every composite. -/
theorem execMoves_opening (hi : isComposite i = true) (q : Seq) (hw : loadedByte i q.held (.writeAddress .load) = w)
    (hr : loadedByte i q.held (.subAddress .load) = r) (hgo : s.cfg.mode = .faithful ∨ openingOk s.cfg a1 a2 a3) :
    execMoves i (openingMoves a1 a2 a3) (goto q (.start .issue) s) =
      .next (goOn i { q with pos := .subAddress (.check true) } (opened w r a1 a2 a3 s)) := by
  let s1 := (Exchange.start .start (·.startOk)).checked a1 s
  let s2 := (Exchange.writeAddress w).checked a2 s1
  have hc1 : s1.cfg = s.cfg := Exchange.checked_cfg ..
  have hc2 : s2.cfg = s.cfg := (Exchange.checked_cfg ..).trans hc1
  have hstart := StartSite.start.execMoves_start (i := i) (a := a1) (fun _ => hasStep_of_posOpening hi rfl) (s := s) q
    (hgo.imp_right fun h => h.1)
  have haddress := SendSite.writeAddress.execMoves_send (a := a2) hi (fun _ => hasStep_of_posOpening hi rfl) (s := s1) q hw
    (Exchange.checked_int ..) (by rw [hc1]; exact hgo.imp_right fun h => h.2.1)
  have hsub := SendSite.subAddress.execMoves_send (a := a3) hi (fun _ => hasStep_of_posOpening hi rfl) (s := s2) q hr
    (Exchange.checked_int ..) (by rw [hc2]; exact hgo.imp_right fun h => h.2.2)
  rw [(goOn_opening hi q _).1] at hstart
  rw [(goOn_opening hi q _).2] at haddress
  rw [openingMoves, execMoves_append hstart, execMoves_append haddress, hsub]
  rfl

/-- The opening of every read. -/
theorem execMoves_readOpening (hi : isRead i = true) (q : Seq) (hw : loadedByte i q.held (.writeAddress .load) = w)
    (hr : loadedByte i q.held (.subAddress .load) = r) (hx : loadedByte i q.held (.readAddress .load) = x)
    (hgo : s.cfg.mode = .faithful ∨ readOpeningOk s.cfg a1 a2 a3 a4 a5) :
    execMoves i (readOpeningMoves a1 a2 a3 a4 a5) (goto q (.start .issue) s) =
      .next (goOn i { q with pos := .readAddress (.check true) } (readOpened w r x a1 a2 a3 a4 a5 s)) := by
  let s3 := opened w r a1 a2 a3 s
  let s4 := (Exchange.start .repeatedStart (·.repeatedStartOk)).checked a4 s3
  have hc3 : s3.cfg = s.cfg := (opened_leaves w r a1 a2 a3 s).cfg
  have hc4 : s4.cfg = s.cfg := (Exchange.checked_cfg ..).trans hc3
  have hopening := execMoves_opening (isComposite_of_isRead hi) q hw hr (hgo.imp_right fun h => h.1)
  have hstart := StartSite.repeatedStart.execMoves_start (i := i) (a := a4) (fun _ => hasStep_of_posReading hi rfl) (s := s3) q
    (by rw [hc3]; exact hgo.imp_right fun h => h.2.1)
  have haddress := SendSite.readAddress.execMoves_send (a := a5) (isComposite_of_isRead hi) (fun _ => hasStep_of_posReading hi rfl)
    (s := s4) q hx (Exchange.checked_int ..) (by rw [hc4]; exact hgo.imp_right fun h => h.2.2)
  rw [(goOn_readOpening hi q _).1] at hopening
  rw [(goOn_readOpening hi q _).2] at hstart
  rw [readOpeningMoves, execMoves_append hopening, execMoves_append hstart, haddress]
  rfl

end

end Sys2Proof.Machine
end

section
/-! The ends of the composites (R105, R107 of 42_transactions.md), and the composites without a burst from acceptance to finish (R109 to
R111). -/

namespace Sys2Proof.Machine

/-! ### The ends -/

/-- A composite write ends with its stop and its finish (R105). -/
theorem execMoves_writeEnd {i : Instr} (hi : isComposite i = true) (hend : afterStop i = .finish) (c : Code) (b : Byte) (q : Seq)
    (s : State) : execMoves i (stopMoves c b ++ [Move.sequencer]) (goto q (.stop .issue) s) = .next (finishComposite (stopped s)) := by
  have hstop := execMoves_stop (.inr hi) c b q s
  have hfinish := execMoves_finish i q (stopped s)
  rw [finishOf, if_pos hi] at hfinish
  rw [hend] at hstop
  exact (execMoves_append hstop).trans hfinish

/-- A composite read ends with its stop, its toggle and its finish (R105); `t` is what the command makes of the toggled state. -/
theorem execMoves_readEnd {i : Instr} {after : Seq → State → Bool → State} (hi : isRead i = true)
    (hc : Calls i .toggle after toggleStep) (c : Code) (b : Byte) (q : Seq) (s : State) {t : State}
    (ht : after { q with pos := .toggle .on } (goto q (.toggle .on) (toggled (stopped s))) true = goto q .finish t) :
    execMoves i (stopMoves c b ++ (toggleMoves ++ [Move.sequencer])) (goto q (.stop .issue) s) = .next (finishComposite t) := by
  have hcomposite := isComposite_of_isRead hi
  have hstop := execMoves_stop (.inr hcomposite) c b q s
  have hafter : afterStop i = .toggle .off := by
    cases i with
    | readRegister | readRegisters => rfl
    | _ => cases hi
  rw [hafter] at hstop
  let u := disableEffects { stopped s with cr := (stopped s).cr.written 0x00#8 }
  have hoff : exec i (goto q (.toggle .off) (stopped s)) = .next (goto q (.toggle .on) u) :=
    hc.exec_goto q (by rw [toggleStep, writeCr_disabling rfl rfl]; rfl)
  have hon : exec i (goto q (.toggle .on) u) = .next (goto q .finish t) := by
    rw [hc.exec_ret (q := { q with pos := .toggle .on }) rfl rfl (toggleStep_on _)]
    exact congrArg _ ht
  have hfinish := execMoves_finish i q t
  rw [finishOf, if_pos hcomposite] at hfinish
  rw [execMoves_append hstop, toggleMoves]
  exact (execMoves_sequencer rfl hoff).trans ((execMoves_sequencer rfl hon).trans hfinish)

section
variable {events : List BusEvent} {ok : Prop} {s t : State}

theorem Leaves.after_stop (h : Leaves events ok s t) : Leaves (events ++ stopEvents s.cfg) ok s (stopped t) :=
  (h.trans (stopped_leaves t)).congr (by rw [h.cfg]) fun hok => ⟨hok, trivial⟩

theorem Leaves.after_toggle (h : Leaves events ok s t) :
    Leaves (events ++ (stopEvents s.cfg ++ [BusEvent.disabled])) ok s (toggled (stopped t)) :=
  (h.after_stop.trans (toggled_leaves rfl)).congr (List.append_assoc ..) fun hok => ⟨hok, trivial⟩

/-- A stop and a toggle leave the status NO_INFO (R42, R26). -/
theorem Leaves.after_stop_sr (h : Leaves events ok s t) :
    (stopped t).sr = { code := s.cfg.noInfo.extractLsb' 3 5, ps := s.sr.ps } := by
  rw [← h.cfg, ← h.ps]; rfl

/-- Where every post-check passed RESULT is VALUE alone. -/
theorem Leaves.pack_acc {i : Instr} {p : Pos} (h : Leaves events ok (accept i p s) t) (hok : ok) :
    pack t.acc = t.acc.value.setWidth 32 := by
  rw [h.acc hok]
  exact pack_value _

end

/-- CR of an enabled controller without any other bit (R19 of 10_state.md). -/
theorem toByte_enabled : Cr.toByte ⟨false, false, false, false, true⟩ = 0x04#8 := by decide

/-- A command whose argument is good is accepted at its first step (R69 of 30_encoding.md). -/
theorem exec_accepts {i : Instr} {s : State} {p : Pos} (hb : s.busy = false) (hw : i.wf = true) (hp : firstPos i = p) :
    exec i s = .next (accept i p s) := by
  rw [exec_idle (busy_eq_false_iff.mp hb), if_pos hw, hp]

/-- Acceptance sets the sequencer at the first step. -/
theorem goto_accept (i : Instr) (p : Pos) (s : State) :
    goto { cur := encode i, pos := p, held := 0#8 } p (accept i p s) = accept i p s := rfl

/-! ### WRITE_REGISTER -/

/-- Settles O37: the opening, one more SendData, the stop; what they leave composes. -/
theorem writeRegisterRunsItsSequence : Obligations.WriteRegisterRunsItsSequence := by
  unfold Obligations.WriteRegisterRunsItsSequence
  intro s addr7 aw reg byte a1 a2 a3 a4 c b _ hb haw i ok hgo
  obtain rfl := eq_addressByte (rw := false) haw
  let q : Seq := { cur := encode i, pos := .start .issue, held := 0#8 }
  let s0 := accept i (.start .issue) s
  let s1 := opened (addressByte addr7 false) reg a1 a2 a3 s0
  let s2 := (Exchange.data byte).checked a4 s1
  have h1 : Leaves _ (openingOk s.cfg a1 a2 a3) s0 s1 := opened_leaves (addressByte addr7 false) reg a1 a2 a3 s0
  have h2 : Leaves _ ok s0 s2 := (h1.trans (Exchange.checked_leaves _ a4 s1)).congr rfl fun hok =>
    ⟨hok.1, by rw [h1.cfg]; exact Exchange.send_passes.mpr hok.2⟩
  have hopening : execMoves i (openingMoves a1 a2 a3) (goto q (.start .issue) s0) = .next (goto q (.data 0 .ready) s1) := by
    rw [execMoves_opening (i := i) (s := s0) rfl q rfl rfl (hgo.imp_right And.left), goOn_eq q rfl rfl]
    rfl
  have hdata : execMoves i (sendMoves a4.1 a4.2) (goto q (.data 0 .ready) s1) = .next (goto q (.stop .issue) s2) := by
    rw [(SendSite.data 0).execMoves_send rfl (fun _ => rfl) q rfl (opened_int ..) (by rw [h1.cfg]; exact hgo.imp_right And.right),
      goOn_eq q rfl rfl]
    rfl
  have hdr : s2.dr = byte := (Exchange.data byte).checked_dr a4 s1
  have hbuf : s2.buf = s.buf := by simp [s2, s1, s0]
  have hvalue : s2.acc.value = 0#8 := by simp [s2, s1, s0, Acc.zero]
  clear_value s2
  refine ⟨exec_accepts hb rfl rfl, finishComposite (stopped s2), ?run, rfl, hdr, toByte_enabled, h2.after_stop_sr, rfl, rfl, h2.br, hbuf,
    h2.cmd, (pack_fields _).1.trans hvalue, (h2.after_stop.congr (List.append_assoc ..) id).busev,
    fun hok => ⟨(h2.pack_acc hok).trans (by rw [hvalue]; rfl), h2.log hok⟩⟩
  rw [← goto_accept, execMoves_append hopening, execMoves_append hdata, execMoves_writeEnd rfl rfl]

/-! ### READ_REGISTER and READ_REGISTERS of no byte -/

/-- Without an abort, and with no error named where the mode is HARDENED, READ_REGISTER returns the byte it held (R108). -/
theorem readRegisterValue_eq_held {v : Byte} {s : State} (ha : s.acc.aborted = false)
    (h : s.cfg.mode = .faithful ∨ s.acc.errKind = .none) : readRegisterValue v s = v := by
  rw [readRegisterValue_eq, ha, if_neg (by decide), if_neg]
  rintro ⟨hm, he⟩
  exact h.elim (fun hf => by rw [hf] at hm; cases hm) he

/-- Settles O34: the opening of a read, the receive and the read of DR, the stop and the toggle. -/
theorem readRegisterRunsItsSequence : Obligations.ReadRegisterRunsItsSequence := by
  unfold Obligations.ReadRegisterRunsItsSequence
  intro s addr7 aw ar reg a1 a2 a3 a4 a5 a6 c b _ hb haw har i ok hgo
  obtain rfl := eq_addressByte (rw := false) haw
  obtain rfl := eq_addressByte (rw := true) har
  let q : Seq := { cur := encode i, pos := .start .issue, held := 0#8 }
  let s0 := accept i (.start .issue) s
  let s1 := readOpened (addressByte addr7 false) reg (addressByte addr7 true) a1 a2 a3 a4 a5 s0
  let s2 := (Exchange.receive false).checked a6 s1
  have h1 : Leaves _ (readOpeningOk s.cfg a1 a2 a3 a4 a5) s0 s1 :=
    readOpened_leaves (addressByte addr7 false) reg (addressByte addr7 true) a1 a2 a3 a4 a5 s0
  have h2 : Leaves _ ok s0 s2 := (h1.trans (Exchange.checked_leaves _ a6 s1)).congr rfl fun hok => ⟨hok.1, by rw [h1.cfg]; exact hok.2⟩
  have hopening : execMoves i (readOpeningMoves a1 a2 a3 a4 a5) (goto q (.start .issue) s0) = .next (goto q (.receive 0 .issue) s1) := by
    rw [execMoves_readOpening (i := i) (s := s0) rfl q rfl rfl rfl (hgo.imp_right And.left), goOn_eq q rfl rfl]
    rfl
  have hreceive : execMoves i (receiveMoves a6.1 a6.2) (goto q (.receive 0 .issue) s1) = .next (goto q .readDr s2) := by
    rw [execMoves_receive rfl (fun _ => rfl) q (by rw [h1.cfg]; exact hgo.imp_right And.right), goOn_eq q rfl rfl]
    rfl
  have hbuf : s2.buf = s.buf := by simp [s2, s1, s0]
  have hdr : s2.dr = a6.2 := (Exchange.receive false).checked_dr a6 s1
  clear_value s2
  have hread : exec i (goto q .readDr s2) = .next (goto { q with held := s2.dr } (.stop .issue) s2) :=
    exec_readRegister_readDr (q := { q with pos := .readDr }) addr7 reg rfl rfl
  have hvalue : readRegisterValue s2.dr (toggled (stopped s2)) = s2.dr := readRegisterValue_eq_held h2.aborted (by
    rw [h2.after_toggle.cfg]
    exact hgo.imp_right fun hok => congrArg Acc.errKind (h2.acc hok))
  have hend := execMoves_readEnd (t := setValue (readRegisterValue s2.dr (toggled (stopped s2))) (toggled (stopped s2))) rfl
    (readRegister_calls_toggle addr7 reg) c b { q with held := s2.dr } s2 rfl
  rw [hvalue, hdr] at hend
  have h3 := h2.after_toggle.after_setValue a6.2
  refine ⟨exec_accepts hb rfl rfl, finishComposite (setValue a6.2 (toggled (stopped s2))), ?run, rfl, hdr, toByte_enabled,
    h2.after_stop_sr, rfl, rfl, h2.br, hbuf, h2.cmd, (pack_fields _).1, (h3.congr (List.append_assoc ..) id).busev,
    fun hok => ⟨h3.pack_acc hok, h2.log hok⟩⟩
  rw [← goto_accept, execMoves_append hopening, execMoves_append hreceive, execMoves_sequencer rfl hread, hdr, hend]

/-- Settles O36: accepted at its finish, whose step is all it does. -/
theorem readRegistersOfZeroBytesDoesNothing : Obligations.ReadRegistersOfZeroBytesDoesNothing := by
  unfold Obligations.ReadRegistersOfZeroBytesDoesNothing
  intro s addr7 reg hb i
  have hidle : s.seq = none := busy_eq_false_iff.mp hb
  refine ⟨exec_accepts hb rfl rfl, ?_⟩
  rw [← goto_accept, execMoves_finish, hidle, ← pack_zero]
  rfl

end Sys2Proof.Machine
end

section
/-! READ_REGISTERS (R110 of 42_transactions.md): the burst of receives, each with the store of its byte. -/

namespace Sys2Proof.Machine

/-- The state after the store of burst byte `k`. -/
def stored (k : Nat) (s : State) : State := setValue (BitVec.ofNat 8 (k + 1)) { s with buf := s.buf.write k s.dr }

theorem exec_stored {addr7 : Addr7} {r n : Byte} (q : Seq) {k : Nat} (s : State) :
    exec (.readRegisters addr7 r n) (goto q (.storeBuf k) s) = .next (goto q (readNext (count n) (k + 1)) (stored k s)) :=
  exec_readRegisters_storeBuf (q := { q with pos := .storeBuf k }) addr7 r n rfl rfl

/-- The state after the receives of the answers `as`, from burst byte `k` of `n` on. -/
def burstRead (n : Nat) : Nat → List Answer → State → State
  | _, [], s => s
  | k, a :: as, s => burstRead n (k + 1) as (stored k ((Exchange.receive (burstAck n k)).checked a s))

/-- The burst of receives, from the position where byte `k` is next to the stop. -/
theorem execMoves_burstRead {addr7 : Addr7} {r n : Byte} (q : Seq) {k : Nat} {as : List Answer} {s : State} (hk : k + as.length = count n)
    (hgo : s.cfg.mode = .faithful ∨ ∀ a ∈ as, a.isReceiveOk s.cfg) :
    execMoves (.readRegisters addr7 r n) (burstReadMoves as) (goto q (readNext (count n) k) s) =
      .next (goto q (.stop .issue) (burstRead (count n) k as s)) := by
  induction as generalizing k s with
  | nil =>
    have hdone : ¬ k < count n := by rw [List.length_nil] at hk; omega
    rw [readNext, if_neg hdone]
    rfl
  | cons a as ih =>
    rw [List.length_cons] at hk
    have hmore : k < count n := by omega
    let t := (Exchange.receive (burstAck (count n) k)).checked a s
    have hreceive : execMoves (.readRegisters addr7 r n) (receiveMoves a.1 a.2) (goto q (.receive k .issue) s) =
        .next (goto q (.storeBuf k) t) := by
      rw [execMoves_receive rfl (fun _ => rfl) q (hgo.imp_right fun h => h a List.mem_cons_self), goOn_eq q rfl rfl]
      rfl
    have hcfg : (stored k t).cfg = s.cfg := Exchange.checked_cfg (.receive (burstAck (count n) k)) a s
    rw [readNext, if_pos hmore, burstReadMoves, execMoves_append hreceive, execMoves_sequencer rfl (exec_stored q t),
      ih (by omega) (by rw [hcfg]; exact hgo.imp_right fun h b hb => h b (List.mem_cons_of_mem a hb))]
    rfl

/-! ### What the burst leaves -/

theorem Leaves.after_store {events : List BusEvent} {ok : Prop} {s t : State} (h : Leaves events ok s t) (k : Nat) :
    Leaves events ok s (stored k t) :=
  { h.after_setValue (BitVec.ofNat 8 (k + 1)) with log := h.log }

/-- The burst's events begin with those of its first receive: RECV_ACK where more follow, else RECV_NACK. -/
theorem burstReadEvents_cons {n k : Nat} {a : Answer} {as : List Answer} (hk : k + (as.length + 1) = n) :
    burstReadEvents (a :: as) = (Exchange.receive (burstAck n k)).events a ++ burstReadEvents as := by
  cases as with
  | nil =>
    have hlast : burstAck n k = false := decide_eq_false (by rw [List.length_nil] at hk; omega)
    rw [hlast]; rfl
  | cons b bs =>
    have hmore : burstAck n k = true := decide_eq_true (by rw [List.length_cons] at hk; omega)
    rw [hmore]; rfl

theorem burstRead_leaves {n k : Nat} {as : List Answer} {s : State} (hk : k + as.length = n) (hp : s.pend = none) :
    Leaves (burstReadEvents as) (∀ a ∈ as, a.isReceiveOk s.cfg) s (burstRead n k as s) := by
  induction as generalizing k s with
  | nil => exact (Leaves.refl hp).congr rfl fun _ => trivial
  | cons a as ih =>
    have h1 := (Exchange.checked_leaves (.receive (burstAck n k)) a s).after_store k
    have h2 := ih (k := k + 1) (by rw [List.length_cons] at hk; omega) h1.pend
    rw [h1.cfg] at h2
    exact (h1.trans h2).congr (burstReadEvents_cons hk).symm fun hok => List.forall_mem_cons.mp hok

/-- VALUE counts the bytes stored. -/
theorem burstRead_value {n k : Nat} {as : List Answer} {s : State} (hv : s.acc.value = BitVec.ofNat 8 k) :
    (burstRead n k as s).acc.value = BitVec.ofNat 8 (k + as.length) := by
  induction as generalizing k s with
  | nil => exact hv
  | cons a as ih =>
    rw [burstRead, ih rfl, List.length_cons]
    congr 1
    omega

/-- The burst writes no byte before the ones received, and none after. -/
theorem burstRead_read_other {n k j : Nat} {as : List Answer} {s : State} (hj : j < k ∨ k + as.length ≤ j) :
    (burstRead n k as s).buf.read j = s.buf.read j := by
  induction as generalizing k s with
  | nil => rfl
  | cons a as ih =>
    rw [List.length_cons] at hj
    rw [burstRead, ih (by omega)]
    refine (Memory.read_write_other _ _ (by omega)).trans ?_
    rw [Exchange.checked_buf]

/-- The burst stores the bytes received, in order. -/
theorem burstRead_read {n k j : Nat} {as : List Answer} {s : State} (hj : j < as.length) :
    (burstRead n k as s).buf.read (k + j) = as[j]?.map (·.2) := by
  induction as generalizing k j s with
  | nil => cases hj
  | cons a as ih =>
    cases j with
    | zero =>
      rw [burstRead, burstRead_read_other (.inl (by omega))]
      refine (Memory.read_write_same ..).trans ?_
      rw [Exchange.checked_dr]
      cases burstAck n k <;> rfl
    | succ j =>
      have hindex : k + (j + 1) = k + 1 + j := by omega
      rw [burstRead, hindex, ih (Nat.lt_of_succ_lt_succ hj)]
      rfl

/-! ### From acceptance to finish -/

theorem readRegisters_calls_toggle (a : Addr7) (r n : Byte) :
    Calls (.readRegisters a r n) .toggle (fun q s _ => goto q .finish s) toggleStep :=
  fun s q p hq hp => by simp only [exec, execReadRegisters, command_running hq, hp]

/-- Settles O35: the opening of a read, the burst, the stop and the toggle. -/
theorem readRegistersFillsTheBuffer : Obligations.ReadRegistersFillsTheBuffer := by
  unfold Obligations.ReadRegistersFillsTheBuffer
  intro s addr7 aw ar reg n a1 a2 a3 a4 a5 as c b _ hb haw har hlen hn i ok hgo
  obtain rfl := eq_addressByte (rw := false) haw
  obtain rfl := eq_addressByte (rw := true) har
  let q : Seq := { cur := encode i, pos := .start .issue, held := 0#8 }
  let s0 := accept i (.start .issue) s
  let s1 := readOpened (addressByte addr7 false) reg (addressByte addr7 true) a1 a2 a3 a4 a5 s0
  let s2 := burstRead (count n) 0 as s1
  have hcount : 0 + as.length = count n := by rw [Nat.zero_add, hlen]; rfl
  have h1 : Leaves _ (readOpeningOk s.cfg a1 a2 a3 a4 a5) s0 s1 :=
    readOpened_leaves (addressByte addr7 false) reg (addressByte addr7 true) a1 a2 a3 a4 a5 s0
  have h2 : Leaves _ ok s0 s2 := (h1.trans (burstRead_leaves hcount h1.pend)).congr rfl (by rw [h1.cfg]; exact id)
  have hopening : execMoves i (readOpeningMoves a1 a2 a3 a4 a5) (goto q (.start .issue) s0) =
      .next (goto q (readNext (count n) 0) s1) := by
    rw [execMoves_readOpening (i := i) (s := s0) rfl q rfl rfl rfl (hgo.imp_right And.left), readNext_zero, goOn_eq q rfl rfl]
    rfl
  have hburst : execMoves i (burstReadMoves as) (goto q (readNext (count n) 0) s1) = .next (goto q (.stop .issue) s2) :=
    execMoves_burstRead q hcount (by rw [h1.cfg]; exact hgo.imp_right And.right)
  have hread : ∀ k, k < n.toNat → s2.buf.read k = as[k]?.map (·.2) := fun k hk => by
    rw [← burstRead_read (n := count n) (k := 0) (s := s1) (hlen ▸ hk), Nat.zero_add]
  have hother : ∀ k, n.toNat ≤ k → s2.buf.read k = s.buf.read k := fun k hk => by
    rw [burstRead_read_other (.inr (by omega)), readOpened_buf]
    rfl
  have hvalue : s2.acc.value = n := by
    rw [burstRead_value (by rw [readOpened_value]; rfl), Nat.zero_add, hlen, BitVec.ofNat_toNat, BitVec.setWidth_eq]
  clear_value s2
  have hend := execMoves_readEnd (t := toggled (stopped s2)) rfl (readRegisters_calls_toggle addr7 reg n) c b q s2 rfl
  refine ⟨exec_accepts hb rfl (if_neg hn), finishComposite (toggled (stopped s2)), ?run, rfl, toByte_enabled, h2.after_stop_sr, rfl, rfl,
    h2.br, h2.cmd, hread, hother, (pack_fields _).1.trans hvalue, (h2.after_toggle.congr (List.append_assoc ..) id).busev,
    fun hok => ⟨(h2.pack_acc hok).trans (by rw [hvalue]), h2.log hok⟩⟩
  rw [← goto_accept, execMoves_append hopening, execMoves_append hburst, hend]

end Sys2Proof.Machine
end

section
/-! WRITE_REGISTERS (R112 of 42_transactions.md): the burst of sends, each after the read of its BUF byte. -/

namespace Sys2Proof.Machine

/-- The state after the sends of the bytes `bs` with the answers `as`, from burst byte `k` on. -/
def burstWritten : Nat → List Byte → List Answer → State → State
  | k, b :: bs, a :: as, s =>
    burstWritten (k + 1) bs as (setValue (BitVec.ofNat 8 (k + 1)) ((Exchange.data b).checked a s))
  | _, _, _, s => s

theorem exec_loaded {addr7 : Addr7} {r n : Byte} (q : Seq) {k : Nat} {b : Byte} {s : State} (hb : s.buf.read k = some b) :
    exec (.writeRegisters addr7 r n) (goto q (.loadBuf k) s) = .next (goto { q with held := b } (.data k .ready) s) :=
  exec_writeRegisters_loadBuf (q := { q with pos := .loadBuf k }) addr7 r n rfl rfl hb

/-- After the check of burst byte `k` VALUE counts it, and the next byte follows or the stop. -/
theorem goOn_burstWrite {addr7 : Addr7} {r n : Byte} (q : Seq) (k : Nat) (s : State) :
    goOn (.writeRegisters addr7 r n) { q with pos := .data k (.check true) } s =
      goto q (writeNext (count n) (k + 1)) (setValue (BitVec.ofNat 8 (k + 1)) s) := rfl

/-- The burst of sends, from the position where byte `k` is next to the stop. -/
theorem execMoves_burstWrite {addr7 : Addr7} {r n : Byte} (q : Seq) {k : Nat} {bs : List Byte} {as : List Answer} {s : State}
    (hlen : bs.length = as.length) (hk : k + as.length = count n) (hbuf : ∀ j, j < as.length → s.buf.read (k + j) = bs[j]?)
    (hint : s.cr.int = true) (hgo : s.cfg.mode = .faithful ∨ ∀ a ∈ as, a.isStatus s.cfg.writeDataOk) :
    ∃ q', execMoves (.writeRegisters addr7 r n) (burstWriteMoves as) (goto q (writeNext (count n) k) s) =
      .next (goto q' (.stop .issue) (burstWritten k bs as s)) := by
  induction as generalizing k bs s q with
  | nil =>
    have hdone : ¬ k < count n := by rw [List.length_nil] at hk; omega
    refine ⟨q, ?_⟩
    rw [writeNext, if_neg hdone]
    cases bs <;> rfl
  | cons a as ih =>
    obtain ⟨b, bs, rfl⟩ := List.exists_cons_of_length_eq_add_one hlen
    rw [List.length_cons] at hk
    have hmore : k < count n := by omega
    let q1 : Seq := { q with held := b }
    let t := setValue (BitVec.ofNat 8 (k + 1)) ((Exchange.data b).checked a s)
    have hload := exec_loaded (addr7 := addr7) (r := r) (n := n) (k := k) q (hbuf 0 (Nat.succ_pos _))
    have hsend := (SendSite.data k).execMoves_send (i := .writeRegisters addr7 r n) rfl (fun _ => rfl) q1 (b := b) rfl hint
      (hgo.imp_right fun h => h a List.mem_cons_self)
    rw [goOn_burstWrite] at hsend
    have hcfg : t.cfg = s.cfg := Exchange.checked_cfg (.data b) a s
    have hnext : ∀ j, j < as.length → t.buf.read (k + 1 + j) = bs[j]? := fun j hj => by
      have hindex : k + 1 + j = k + (j + 1) := by omega
      rw [setValue_buf, Exchange.checked_buf, hindex, hbuf (j + 1) (Nat.succ_lt_succ hj)]
      rfl
    obtain ⟨q', hrest⟩ := ih q1 (k := k + 1) (bs := bs) (s := t) (Nat.succ.inj hlen) (by omega) hnext
      (Exchange.checked_int (.data b) a s)
      (by rw [hcfg]; exact hgo.imp_right fun h c hc => h c (List.mem_cons_of_mem a hc))
    refine ⟨q', ?_⟩
    rw [writeNext, if_pos hmore, burstWriteMoves, execMoves_sequencer rfl hload, execMoves_append hsend, hrest]
    rfl

/-! ### What the burst leaves -/

theorem burstWritten_leaves {k : Nat} {bs : List Byte} {as : List Answer} {s : State} (hlen : bs.length = as.length)
    (hp : s.pend = none) :
    Leaves (burstWriteEvents bs as) (∀ a ∈ as, a.isStatus s.cfg.writeDataOk) s (burstWritten k bs as s) := by
  induction as generalizing k bs s with
  | nil =>
    obtain rfl : bs = [] := List.length_eq_zero_iff.mp hlen
    exact (Leaves.refl hp).congr rfl fun _ => trivial
  | cons a as ih =>
    obtain ⟨b, bs, rfl⟩ := List.exists_cons_of_length_eq_add_one hlen
    have h1 := (Exchange.checked_leaves (.data b) a s).after_setValue (BitVec.ofNat 8 (k + 1))
    have h2 := ih (k := k + 1) (bs := bs) (Nat.succ.inj hlen) h1.pend
    rw [h1.cfg] at h2
    exact (h1.trans h2).congr rfl fun hok => (List.forall_mem_cons.mp hok).imp_left Exchange.send_passes.mpr

/-- VALUE counts the bytes sent. -/
theorem burstWritten_value {k : Nat} {bs : List Byte} {as : List Answer} {s : State} (hlen : bs.length = as.length)
    (hv : s.acc.value = BitVec.ofNat 8 k) : (burstWritten k bs as s).acc.value = BitVec.ofNat 8 (k + as.length) := by
  induction as generalizing k bs s with
  | nil =>
    obtain rfl : bs = [] := List.length_eq_zero_iff.mp hlen
    exact hv
  | cons a as ih =>
    obtain ⟨b, bs, rfl⟩ := List.exists_cons_of_length_eq_add_one hlen
    rw [burstWritten, ih (Nat.succ.inj hlen) rfl, List.length_cons]
    congr 1
    omega

theorem burstWritten_buf {k : Nat} {bs : List Byte} {as : List Answer} {s : State} : (burstWritten k bs as s).buf = s.buf := by
  induction as generalizing k bs s with
  | nil => cases bs <;> rfl
  | cons a as ih =>
    cases bs with
    | nil => rfl
    | cons b bs => rw [burstWritten, ih, setValue_buf, Exchange.checked_buf]

/-! ### From acceptance to finish -/

/-- Settles O38: the opening, the burst and the stop. -/
theorem writeRegistersSendsTheBuffer : Obligations.WriteRegistersSendsTheBuffer := by
  unfold Obligations.WriteRegistersSendsTheBuffer
  intro s addr7 aw reg n a1 a2 a3 as bs c b _ hb haw hlen hbytes hbuf i ok hgo
  obtain rfl := eq_addressByte (rw := false) haw
  let q : Seq := { cur := encode i, pos := .start .issue, held := 0#8 }
  let s0 := accept i (.start .issue) s
  let s1 := opened (addressByte addr7 false) reg a1 a2 a3 s0
  let s2 := burstWritten 0 bs as s1
  have hsame : bs.length = as.length := hbytes.trans hlen.symm
  have hcount : 0 + as.length = count n := by rw [Nat.zero_add, hlen]; rfl
  have h1 : Leaves _ (openingOk s.cfg a1 a2 a3) s0 s1 := opened_leaves (addressByte addr7 false) reg a1 a2 a3 s0
  have h2 : Leaves _ ok s0 s2 := (h1.trans (burstWritten_leaves hsame h1.pend)).congr rfl (by rw [h1.cfg]; exact id)
  have hopening : execMoves i (openingMoves a1 a2 a3) (goto q (.start .issue) s0) = .next (goto q (writeNext (count n) 0) s1) := by
    rw [execMoves_opening (i := i) (s := s0) rfl q rfl rfl (hgo.imp_right And.left), writeNext_zero, goOn_eq q rfl rfl]
    rfl
  have hwritten : ∀ j, j < as.length → s1.buf.read (0 + j) = bs[j]? := fun j hj => by
    rw [opened_buf, Nat.zero_add]
    exact hbuf j (hlen ▸ hj)
  obtain ⟨q', hburst⟩ : ∃ q', execMoves i (burstWriteMoves as) (goto q (writeNext (count n) 0) s1) =
      .next (goto q' (.stop .issue) s2) :=
    execMoves_burstWrite q hsame hcount hwritten (opened_int ..) (by rw [h1.cfg]; exact hgo.imp_right And.right)
  have hvalue : s2.acc.value = n := by
    rw [burstWritten_value hsame (by rw [opened_value]; rfl), Nat.zero_add, hlen, BitVec.ofNat_toNat, BitVec.setWidth_eq]
  have hkept : s2.buf = s.buf := by rw [burstWritten_buf, opened_buf]; rfl
  clear_value s2
  refine ⟨exec_accepts hb rfl rfl, finishComposite (stopped s2), ?run, rfl, toByte_enabled, h2.after_stop_sr, rfl, rfl, h2.br, hkept,
    h2.cmd, (pack_fields _).1.trans hvalue, (h2.after_stop.congr (List.append_assoc ..) id).busev,
    fun hok => ⟨(h2.pack_acc hok).trans (by rw [hvalue]), h2.log hok⟩⟩
  rw [← goto_accept, execMoves_append hopening, execMoves_append hburst, execMoves_writeEnd rfl rfl]

end Sys2Proof.Machine
end

section
/-! The first error of a command (R115 of 60_exceptions.md): `Err` names an error only where none is named, its callers set their flag
for every error (R85, R86, R94 of 41_primitives.md), and no step of a running command takes either back. -/

namespace Sys2Proof.Machine

theorem Acc.err_of_unnamed {a : Acc} (h : a.errKind = .none) (k : ErrKind) (ph : ErrPhase) (st : Byte) :
    a.err k ph st = { a with errKind := k, errPhase := ph, errStatus := st } := if_pos h

theorem Acc.err_of_named {a : Acc} (h : a.errKind ≠ .none) (k : ErrKind) (ph : ErrPhase) (st : Byte) : a.err k ph st = a := if_neg h

/-- What ACC holds of a command's errors in `a`, it still holds in `b`. -/
structure ErrorsStay (a b : Acc) : Prop where
  named : a.errKind ≠ .none → b.errKind = a.errKind ∧ b.errPhase = a.errPhase ∧ b.errStatus = a.errStatus
  timeout : a.timeout = true → b.timeout = true
  mismatch : a.mismatch = true → b.mismatch = true

theorem ErrorsStay.refl (a : Acc) : ErrorsStay a a := ⟨fun _ => ⟨rfl, rfl, rfl⟩, id, id⟩

theorem ErrorsStay.trans {a b c : Acc} (h1 : ErrorsStay a b) (h2 : ErrorsStay b c) : ErrorsStay a c where
  named hn := by
    obtain ⟨hk, hp, hs⟩ := h1.named hn
    obtain ⟨hk', hp', hs'⟩ := h2.named (hk ▸ hn)
    exact ⟨hk'.trans hk, hp'.trans hp, hs'.trans hs⟩
  timeout := h2.timeout ∘ h1.timeout
  mismatch := h2.mismatch ∘ h1.mismatch

theorem Acc.err_errorsStay (a : Acc) (k : ErrKind) (ph : ErrPhase) (st : Byte) : ErrorsStay a (a.err k ph st) where
  named hn := by rw [Acc.err_of_named hn]; exact ⟨rfl, rfl, rfl⟩
  timeout h := by rwa [Acc.err_timeout]
  mismatch h := by rwa [Acc.err_mismatch]

/-- A timeout of either kind sets its flag before `Err` (R85, R94). -/
theorem Acc.timedOut_errorsStay (a : Acc) (k : ErrKind) (ph : ErrPhase) (st : Byte) : ErrorsStay a (a.timedOut k ph st) :=
  .trans (b := { a with timeout := true }) ⟨fun _ => ⟨rfl, rfl, rfl⟩, fun _ => rfl, id⟩ (Acc.err_errorsStay ..)

/-- A mismatch sets its flag before `Err` (R86). -/
theorem recordMismatch_errorsStay (ph : ErrPhase) (e : Byte) (s : State) : ErrorsStay s.acc (recordMismatch ph e s).acc :=
  .trans (b := { s.acc with mismatch := true }) ⟨fun _ => ⟨rfl, rfl, rfl⟩, id, fun _ => rfl⟩ (Acc.err_errorsStay ..)

theorem SeqEffect.errorsStay {s u : State} {p : Pos} (he : SeqEffect s p u) : ErrorsStay s.acc u.acc := by
  cases he with
  | timeout | stopTimeout => exact Acc.timedOut_errorsStay ..
  | check c ph e m =>
    rcases check_cases ph e m s with ⟨-, hc⟩ | ⟨-, hc⟩ <;> rw [hc]
    · exact .refl _
    · exact recordMismatch_errorsStay ..
  | keep | issue | load | stopDone | toggleOff | toggleOn | enable | setPs | setBr | store => simpa using ErrorsStay.refl s.acc

/-- The last write of ACC is of VALUE or ABORTED, neither of which says what the error was. -/
theorem AccTail.errorsStay {u : State} {a : Acc} (ht : AccTail u a) : ErrorsStay u.acc a := by
  cases ht <;> exact ⟨fun _ => ⟨rfl, rfl, rfl⟩, id, id⟩

theorem exec_errorsStay {i : Instr} {s t : State} {q : Seq} (hq : s.seq = some q) (h : exec i s = .next t) :
    ErrorsStay s.acc t.acc := by
  rcases exec_running h hq with ⟨-, rfl⟩ | ⟨u, a, p, hd, he, htail, rfl⟩
  · rw [finishOf_acc]; exact .refl _
  · exact he.errorsStay.trans htail.errorsStay

/-- Settles O42: `Err` by its two cases, the flags by their recorders, and every step of a running command by `exec_errorsStay`. -/
theorem firstErrorStaysNamed : Obligations.FirstErrorStaysNamed := by
  unfold Obligations.FirstErrorStaysNamed
  refine ⟨fun a k ph st => ⟨fun h => Acc.err_of_unnamed h .., fun h => Acc.err_of_named h ..⟩, fun ph e s => ?_, fun i s t hb h => ?_⟩
  · simp [Acc.timedOut]
  · obtain ⟨q, hq⟩ := Option.isSome_iff_exists.mp hb
    obtain ⟨hnamed, htimeout, hmismatch⟩ := exec_errorsStay hq h
    exact ⟨hnamed, htimeout, hmismatch⟩

end Sys2Proof.Machine
end

section
/-! The machine after reset, and what no step of it changes (R130 of 70_reset_and_hazards.md; R8 of 00_scope.md). -/

namespace Sys2Proof.Machine

/-- With no command running, nothing listed next and no bus action to complete, the block waits. -/
theorem step_waits {s : State} (hw : Params.wf s.cfg = true) (hi : s.inputs = []) (hq : s.seq = none)
    (hb : s.busEnabled = false) : step s = .next s := by
  rw [step_without_input hw hi, freeTurn, if_neg (by simp [hb]), sequencerTurn_idle hq]

/-- A state that a step leaves as it is, is left by any number of them. -/
theorem run_of_step_self {s : State} (h : step s = .next s) (n : Nat) : Host.Core.run core n s = .next s := by
  induction n with
  | zero => rfl
  | succ n ih => rw [run_succ_next h, ih]

/-- No agent changes a parameter. -/
theorem step_cfg {s t : State} (h : step s = .next t) : t.cfg = s.cfg := by
  obtain ⟨-, ms, k, he⟩ := step_effect h
  cases he with
  | wait => rfl
  | exec q i t hq hd hx => exact exec_cfg (s := { s with inputs := ms, tick := k }) hx
  | bus c b => exact busStep_cfg ..
  | host a rest t hi hh => exact hh.block_eq.1
  | reset => rfl

/-- Settles O17: the reset state waits, so every run without input stays in it, and a step's parameters are `step_cfg`. -/
theorem resetBlockWaitsForASubmission : Obligations.ResetBlockWaitsForASubmission := by
  unfold Obligations.ResetBlockWaitsForASubmission
  intro p n hw
  have hwaits : step (State.resetWith p) = .next (State.resetWith p) := step_waits hw rfl rfl rfl
  exact ⟨run_of_step_self hwaits n, rfl, rfl, rfl, fun _ _ => step_cfg⟩

end Sys2Proof.Machine
end

section
/-! The spin on CR.STO from any of its reads, while the bus agent does not complete the stop (R94 of 41_primitives.md; R135 of
70_reset_and_hazards.md). -/

namespace Sys2Proof.Machine

/-- FAITHFUL: any number of reads that find STO = 1 leaves the state as it is. -/
theorem execMoves_spin_faithful {i : Instr} {s : State} {q : Seq} {k : Nat} (hi : stops i) (hq : s.seq = some q)
    (hp : q.pos = .stop (.spin k)) (hs : s.cr.sto = true) (hm : s.cfg.mode = .faithful) (n : Nat) :
    execMoves i (sequencerMoves n) s = .next s := by
  have hh : s.hardened = false := Bool.eq_false_iff.mpr fun h => not_faithful_of_hardened h hm
  simpa [hh, goto_self hq hp] using execMoves_spin (k := k) hi q hs n (by simp [hh])

/-- HARDENED: the last read of the budget goes to the timeout. -/
theorem exec_spin_miss {i : Instr} {s : State} {q : Seq} {k : Nat} (hi : stops i) (hq : s.seq = some q)
    (hp : q.pos = .stop (.spin k)) (hs : s.cr.sto = true) (hh : s.hardened = true) (hk : s.cfg.stopBudget ≤ k + 1) :
    exec i s = .next (goto q (.stop .timeout) s) :=
  exec_stop_stay hi hq hp (stopStep_spin_miss hs hh hk)

/-- HARDENED: the reads left after `k` of them, and one where none is left, end at the timeout. -/
theorem execMoves_spin_gives_up {i : Instr} {s : State} {q : Seq} {k : Nat} (hi : stops i) (hq : s.seq = some q)
    (hp : q.pos = .stop (.spin k)) (hs : s.cr.sto = true) (hh : s.hardened = true) :
    execMoves i (sequencerMoves (s.cfg.stopBudget - (k + 1) + 1)) s = .next (goto q (.stop .timeout) s) := by
  by_cases hk : s.cfg.stopBudget ≤ k + 1
  case pos =>
    rw [Nat.sub_eq_zero_of_le hk]
    exact execMoves_one hq (exec_spin_miss hi hq hp hs hh hk)
  case neg =>
    obtain ⟨n, hn⟩ : ∃ n, s.cfg.stopBudget = k + n + 1 := ⟨s.cfg.stopBudget - (k + 1), by omega⟩
    have hspin := execMoves_spin (k := k) hi q hs n fun _ => by omega
    rw [if_pos hh, goto_self hq hp] at hspin
    rw [show s.cfg.stopBudget - (k + 1) = n by omega, sequencerMoves_add, execMoves_append hspin]
    exact execMoves_one rfl (exec_spin_miss (s := goto q (.stop (.spin (k + n))) s) (q := { q with pos := .stop (.spin (k + n)) })
      hi rfl rfl hs hh hn.le)

/-- Settles O45: in FAITHFUL mode no read of the spin changes anything, in HARDENED mode the reads left of STOP_BUDGET end it. -/
theorem stopSpinIsUnboundedOnlyInFaithfulMode : Obligations.StopSpinIsUnboundedOnlyInFaithfulMode := by
  unfold Obligations.StopSpinIsUnboundedOnlyInFaithfulMode
  intro i s q k n hq hp hs hi
  refine ⟨fun hm => ⟨execMoves_spin_faithful hi hq hp hs hm n, by simp [State.busy, hq]⟩, fun hm => ?_⟩
  exact ⟨_, by omega, execMoves_spin_gives_up hi hq hp hs (hardened_iff.mpr hm)⟩

end Sys2Proof.Machine
end
